-- ==== Sys2Proof/Word.lean ====
section
/-! DEFINITION. The word types of the block, under the names the spec gives the quantities they hold
(spec/00_scope.md R10: every value is an unsigned bit vector of a stated width).

DESIGN CHOICE (log 6): a tick, `TICK_W` bits, and a count, `CNT_W` bits, have widths that are parameters of the
block (R8); each is held as a Nat, and the operation that makes one keeps it in its width. -/

namespace Sys2Proof

/-- One byte: a register `buf[p][i]`, the operand `v` of WBUF (R14, R50). -/
abbrev Byte := BitVec 8

/-- One command word on the port `cmd` (R13, R50). -/
abbrev CmdWord := BitVec 14

/-- The 24 bits of a frame, `shreg` (R15, R38). -/
abbrev Frame := BitVec 24

/-- The operand `p`: the 1-bit index of a buffer and of its pin (R36, R51). -/
abbrev Pin := BitVec 1

/-- The operand `i`: the 2-bit index of a byte in its buffer (R36, R51). -/
abbrev ByteIdx := BitVec 2

end Sys2Proof
end

