-- ==== Sys2Proof/Config.lean ====
section
/-! DEFINITION. What is fixed when the block is built (the parameters of spec/00_scope.md R8), the values
of one cycle on the input ports (R13), and the values the spec leaves to the environment. -/

namespace Sys2Proof

/-- The implementation parameters of R8, each under its name there.
DESIGN CHOICE (log 1): they stand in one record that State carries and no step writes. -/
structure Params where
  /-- `CLK_HZ`: the clock frequency (decision D3). It enters no step, only the durations of R55 and R133. -/
  clkHz : Nat
  /-- `T1H_NS`: the high time of a 1 bit, in nanoseconds. The three durations enter no step; `Params.exact` relates
  them to the cycle counts. -/
  t1hNs : Nat
  /-- `T0H_NS`: the high time of a 0 bit, in nanoseconds. -/
  t0hNs : Nat
  /-- `TBIT_NS`: the whole time of one bit, in nanoseconds. -/
  tbitNs : Nat
  /-- `T1H_CYC`: the high time of a 1 bit, in clock cycles. -/
  t1hCyc : Nat
  /-- `T0H_CYC`: the high time of a 0 bit, in clock cycles. -/
  t0hCyc : Nat
  /-- `TBIT_CYC`: the whole time of one bit, in clock cycles. -/
  tbitCyc : Nat
  /-- `GAP_CYC`: the busy cycles after the 24th bit. -/
  gapCyc : Nat
  /-- `TICK_W`: the width of the millisecond tick. -/
  tickW : Nat
  /-- `DEBOUNCE_MS`: the debounce window in milliseconds. -/
  debounceMs : Nat
  /-- `LONG_MS`: the long-press threshold in milliseconds. -/
  longMs : Nat
  /-- `CNT_W`: the width of the short-press counter and of `rsp_data`. -/
  cntW : Nat
  /-- `PRESSED_LEVEL`: the stable level that means "pressed" (R35). -/
  pressedLevel : Bool
  /-- `PIN_EXT`: the pin of the external LED (decision D9). No step reads it: the block knows pins by number. -/
  pinExt : Pin
  /-- `PIN_ONB`: the pin of the onboard LED (decision D9). -/
  pinOnb : Pin
deriving DecidableEq, Repr, Inhabited

namespace Config

/-- The defaults of R8. Those the spec calls decisions are the spec's own (D3 to D9). -/
def defaultParams : Params where
  clkHz := 20000000
  t1hNs := 800
  t0hNs := 450
  tbitNs := 1250
  t1hCyc := 16
  t0hCyc := 9
  tbitCyc := 25
  gapCyc := 0
  tickW := 32
  debounceMs := 10
  longMs := 1000
  cntW := 8
  pressedLevel := false
  pinExt := 0#1
  pinOnb := 1#1

/-- `FRAME_BITS`: bits per transmission (R8, from the source). -/
def frameBits : Nat := 24

/-- `N_PIN`: the number of LED data outputs (R8, from the source). -/
def nPin : Nat := 2

/-- `BUF_BYTES`: bytes per LED output buffer (R8, from the source). -/
def bufBytes : Nat := 3

end Config

/-- The duration of `n` clock cycles in whole nanoseconds (R8, R133). DESIGN CHOICE (log 18): a duration that is no
whole number of nanoseconds is rounded down; the spec gives no rounding. No step reads it. -/
def Params.cyclesNs (P : Params) (n : Nat) : Nat := n * 1000000000 / P.clkHz

/-- `n` clock cycles last exactly `ns` nanoseconds, without rounding. -/
def Params.lasts (P : Params) (n ns : Nat) : Bool := n * 1000000000 == ns * P.clkHz

/-- The cycle counts are the three durations exactly, as D3 chooses the default clock to make them. R133 asks only that
the durations stay within what the LED accepts, so this is no part of `Params.wf`. -/
def Params.exact (P : Params) : Bool :=
  decide (0 < P.clkHz) && P.lasts P.t1hCyc P.t1hNs && P.lasts P.t0hCyc P.t0hNs && P.lasts P.tbitCyc P.tbitNs

/-- The values on the input ports in one clock cycle (R13). `clk` is the step itself. -/
structure PortIn where
  rst : Bool
  cmdValid : Bool
  cmd : CmdWord
  btnRaw : Bool
  /-- The port `tick_ms`. Its low `TICK_W` bits are the port's bits (log 6). -/
  tickMs : Nat
deriving DecidableEq, Repr, Inhabited

/-- FREE VALUE (log 3). What the environment presents in a cycle for which State lists no port values:
anything at all, since R7 and U14 make the ports free inputs of the step. Its argument is the number of
that cycle, so that no two such cycles need agree. -/
opaque Config.freeInput : Nat → PortIn

/-- FREE VALUE (log 15). What a host makes of a serial field that is an integer in a spelling R101 does not settle: with
a plus sign, with spaces, or with a base. It is host software, not the block. -/
opaque Config.oddField : List Byte → Option Int

/-- FREE VALUE (log 15). The lines a host extracts, and the text it keeps, from a serial buffer that holds more than one
terminator: R101 does not say. It is host software, not the block. -/
opaque Config.oddBuffer : List Byte → List (List Byte) × List Byte

/-- FREE VALUE (log 15). The text a host keeps of the text after a buffer's one terminator: R101 does not say. -/
opaque Config.oddRest : List Byte → List Byte

end Sys2Proof
end

