-- ==== Sys2Proof/Syntax.lean ====
section
/-! DEFINITION. The commands of the block: one constructor per row of spec/opcode_table.json. -/

namespace Sys2Proof

/-- The commands of R52 and the reserved form of R53. A command's unused fields are ignored by the block
(R51), so no constructor carries them. -/
inductive Instr where
  /-- NOP (R89). -/
  | nop
  /-- WBUF with the reserved byte index 3 (R62): the table's row WBUF.RSVD. -/
  | wbufRsvd
  /-- WBUF p, i, v with i in 0, 1, 2 (R61). -/
  | wbuf (p : Pin) (i : ByteIdx) (v : Byte)
  /-- TX p (R63, R64). -/
  | tx (p : Pin)
  /-- UPDATE (R74): its operands are the ports `btn_raw` and `tick_ms`. -/
  | update
  /-- RD_VALUE (R79). -/
  | rdValue
  /-- RD_SHORT (R86). -/
  | rdShort
  /-- RD_LONG (R87). -/
  | rdLong
  /-- RD_STATUS (R90). -/
  | rdStatus
deriving DecidableEq, Repr

/-- The mnemonic of a command, as spec/opcode_table.json spells it. -/
def Instr.mnemonic : Instr → String
  | .nop => "NOP"
  | .wbufRsvd => "WBUF.RSVD"
  | .wbuf _ _ _ => "WBUF"
  | .tx _ => "TX"
  | .update => "UPDATE"
  | .rdValue => "RD_VALUE"
  | .rdShort => "RD_SHORT"
  | .rdLong => "RD_LONG"
  | .rdStatus => "RD_STATUS"

end Sys2Proof
end

