-- ==== Sys2Proof/WellFormed.lean ====
section
/-! DEFINITION. When a command term and a set of parameters are ones the spec admits. -/

namespace Sys2Proof

/-- A WBUF term names a byte that exists: index 3 is the reserved form, a row of its own (R52, R53). -/
def Instr.wf : Instr → Bool
  | .wbuf _ i _ => i != 3#2
  | .nop | .wbufRsvd | .tx _ | .update | .rdValue | .rdShort | .rdLong | .rdStatus => true

/-- The constraints on the parameters that R8 tells a model to assert. `GAP_CYC >= 0` holds of every Nat.
DESIGN CHOICE (log 13): the step is defined without them. -/
def Params.wf (P : Params) : Bool :=
  decide (0 < P.t0hCyc) && decide (P.t0hCyc < P.t1hCyc) && decide (P.t1hCyc < P.tbitCyc)
    && decide (1 ≤ P.debounceMs) && decide (P.debounceMs < 2 ^ (P.tickW - 1))
    && decide (1 ≤ P.longMs) && decide (P.longMs < 2 ^ (P.tickW - 1))
    && decide (8 ≤ P.cntW) && decide (12 ≤ P.tickW)

end Sys2Proof
end

