-- ==== Sys2Proof/Decode.lean ====
section
/-! DEFINITION. The command word: its fields, the opcode map, the decoder (total on every word and on any
bytes, refusing by name), and after it the encoder (spec/30_encoding.md R50 to R54). -/

namespace Sys2Proof

/-! ### The fields of a command word (R50) -/

/-- `cmd[2:0]`, the opcode. -/
def CmdWord.op (w : CmdWord) : BitVec 3 := w.extractLsb' 0 3

/-- `cmd[3]`, the buffer and pin index. -/
def CmdWord.p (w : CmdWord) : Pin := w.extractLsb' 3 1

/-- `cmd[5:4]`, the byte index. -/
def CmdWord.i (w : CmdWord) : ByteIdx := w.extractLsb' 4 2

/-- `cmd[13:6]`, the data byte. -/
def CmdWord.v (w : CmdWord) : Byte := w.extractLsb' 6 8

/-! ### The decoder -/

/-- The command a word on the port stands for (R52). It is total: every word selects one row. The reserved
form of WBUF takes precedence over WBUF (R52, R53). -/
def decode (w : CmdWord) : Instr :=
  if CmdWord.op w = 0#3 then .nop
  else if CmdWord.op w = 1#3 then
    if CmdWord.i w = 3#2 then .wbufRsvd else .wbuf (CmdWord.p w) (CmdWord.i w) (CmdWord.v w)
  else if CmdWord.op w = 2#3 then .tx (CmdWord.p w)
  else if CmdWord.op w = 3#3 then .update
  else if CmdWord.op w = 4#3 then .rdValue
  else if CmdWord.op w = 5#3 then .rdShort
  else if CmdWord.op w = 6#3 then .rdLong
  else .rdStatus

/-- Why bytes are no command word. -/
inductive DecodeReject where
  /-- Fewer than the two bytes that hold a 14-bit word. -/
  | tooShort
  /-- Bit 14 or bit 15 is set: the port `cmd` has 14 bits (R50). -/
  | notAWord
deriving DecidableEq, Repr

/-- A command word out of bytes, low byte first, with the bytes after it.
DESIGN CHOICE (log 11): the block stores no commands (R46), so bytes are the table's numbering of a word's
bits and nothing of the machine. -/
def decodeBytes : List Byte → Except DecodeReject (Instr × List Byte)
  | lo :: hi :: rest =>
    if (hi ++ lo).extractLsb' 14 2 = 0#2 then .ok (decode ((hi ++ lo).extractLsb' 0 14), rest)
    else .error .notAWord
  | _ => .error .tooShort

/-- The `n` lowest bytes of a number, lowest first. -/
def bytesOf : Nat → Nat → List Byte
  | 0, _ => []
  | n + 1, w => BitVec.ofNat 8 w :: bytesOf n (w / 256)

/-- The decoder on a word numbered as spec/opcode_table.json numbers it. -/
def decodeTableWord (nbits w : Nat) : Option Instr :=
  match decodeBytes (bytesOf (max 2 ((nbits + 7) / 8)) (w % 2 ^ nbits)) with
  | .ok (i, []) => some i
  | _ => none

/-! ### The encoder -/

/-- A word out of its four fields: the pattern `vvvvvvvviipooo` (R50). -/
def pack (v : Byte) (i : ByteIdx) (p : Pin) (op : BitVec 3) : CmdWord := v ++ i ++ p ++ op

/-- The word of a command, unused fields 0 (R57). -/
def encode : Instr → CmdWord
  | .nop => pack 0#8 0#2 0#1 0#3
  | .wbufRsvd => pack 0#8 3#2 0#1 1#3
  | .wbuf p i v => pack v i p 1#3
  | .tx p => pack 0#8 0#2 p 2#3
  | .update => pack 0#8 0#2 0#1 3#3
  | .rdValue => pack 0#8 0#2 0#1 4#3
  | .rdShort => pack 0#8 0#2 0#1 5#3
  | .rdLong => pack 0#8 0#2 0#1 6#3
  | .rdStatus => pack 0#8 0#2 0#1 7#3

/-- The two bytes of a command's word, low byte first (log 11). -/
def encodeBytes (i : Instr) : List Byte := bytesOf 2 (encode i).toNat

/-! ### The opcode table as data -/

/-- A row of spec/opcode_table.json: a word selects it when `(w & mask) == match` (R52). -/
structure OpRow where
  mnemonic : String
  mask : CmdWord
  bits : CmdWord
deriving DecidableEq, Repr

/-- A word selects a row (R52). -/
def OpRow.selects (r : OpRow) (w : CmdWord) : Bool := w &&& r.mask == r.bits

/-- The rows of spec/opcode_table.json in its order, the reserved form before the WBUF row it refines (R52). -/
def opcodeTable : List OpRow :=
  [⟨"NOP", 0x0007#14, 0x0000#14⟩, ⟨"WBUF.RSVD", 0x0037#14, 0x0031#14⟩, ⟨"WBUF", 0x0007#14, 0x0001#14⟩,
   ⟨"TX", 0x0007#14, 0x0002#14⟩, ⟨"UPDATE", 0x0007#14, 0x0003#14⟩, ⟨"RD_VALUE", 0x0007#14, 0x0004#14⟩,
   ⟨"RD_SHORT", 0x0007#14, 0x0005#14⟩, ⟨"RD_LONG", 0x0007#14, 0x0006#14⟩, ⟨"RD_STATUS", 0x0007#14, 0x0007#14⟩]

/-- The bits of a word that its command reads; the letter `x` of the table's pattern marks the others (R51, R52). -/
def usedMask : Instr → CmdWord
  | .nop => 0x0007#14
  | .wbufRsvd => 0x0037#14
  | .wbuf _ _ _ => 0x3FFF#14
  | .tx _ => 0x000F#14
  | .update => 0x0007#14
  | .rdValue => 0x0007#14
  | .rdShort => 0x0007#14
  | .rdLong => 0x0007#14
  | .rdStatus => 0x0007#14

end Sys2Proof
end

