-- ==== Sys2Proof/Machine/State.lean ====
section
/-! DEFINITION. The state of the block: every register of spec/10_state.md R14 to R29, the parameters it was
built with, the response port, and what the environment presents to it. -/

namespace Sys2Proof.Machine

/-- The buffer space of R36: the bytes that do not read as `Memory.unlisted`, by rising address. The address
of (p, i) is the number of the three bits `p ++ i` (log 8). -/
abbrev Memory := List Host.Cell

/-- What a byte of the buffer space reads as when it is not listed: its reset value (R34). -/
def Memory.unlisted : Byte := 0x00#8

/-- The phase of the bit engine (R21): three values and no fourth (spec/93_implementation_defined.md U10). -/
inductive Phase where
  | idle
  | bits
  | gap
deriving DecidableEq, Repr

/-- Why a step stops with a fault: never. The block has no halt state (R91), and its two fault conditions are
sticky bits of the state after which it goes on (R107, R108): log 17, safe. -/
inductive Fault where
deriving DecidableEq, Repr

/-- Why a command has no meaning. -/
inductive Refusal where
  /-- Raised by an arm of `exec` for a command that has no meaning yet (safe). No arm does: every command of
  the opcode table has its meaning. -/
  | notModelled (mnemonic : String)
deriving DecidableEq, Repr

/-- The state in one clock cycle. -/
structure State where
  /-- The parameters the block was built with (R8, R30). No step writes them (log 1). -/
  params : Params
  /-- `buf[p][i]` (R14, R36). -/
  mem : Memory
  /-- `shreg` (R15): bit 23 is the bit being sent. -/
  shreg : Frame
  /-- `sel` (R16): the pin of the frame in flight. -/
  sel : Pin
  /-- `ph` (R21). -/
  ph : Phase
  /-- `bitcnt` (R21): the index of the bit being sent (log 7). -/
  bitcnt : Nat
  /-- `cyc` (R21): the cycle within the bit period. -/
  cyc : Nat
  /-- `gapcnt` (R21): the cycle within the gap, 0 where there is none. -/
  gapcnt : Nat
  /-- `ovr` (R24), sticky. -/
  ovr : Bool
  /-- `ill` (R25), sticky. -/
  ill : Bool
  /-- `value` (R26): the stable level of the button input. -/
  value : Bool
  /-- `unstable` (R27). -/
  unstable : Bool
  /-- `t_edge` (R17). -/
  tEdge : Nat
  /-- `t_press` (R18). -/
  tPress : Nat
  /-- `long_fired` (R28). -/
  longFired : Bool
  /-- `long_pending` (R29). -/
  longPending : Bool
  /-- `short_count` (R19). -/
  shortCount : Nat
  /-- `rsp_valid` of the cycle that led to this state (R92, log 5). -/
  rspValid : Bool
  /-- `rsp_data` of the cycle that led to this state (R92, log 5). -/
  rspData : Nat
  /-- The port values of the coming cycles, this cycle's first (R13, log 3): the model's own field. -/
  inputs : List PortIn
  /-- How many cycles have been stepped (log 4): the model's own field, the argument of `Config.freeInput`. -/
  cycleNo : Nat
deriving DecidableEq, Repr

/-- The reset state of R34 of a block built with parameters `P`. -/
def State.resetOf (P : Params) : State where
  params := P
  mem := []
  shreg := 0x000000#24
  sel := 0#1
  ph := .idle
  bitcnt := 0
  cyc := 0
  gapcnt := 0
  ovr := false
  ill := false
  value := !P.pressedLevel
  unstable := false
  tEdge := 0
  tPress := 0
  longFired := false
  longPending := false
  shortCount := 0
  rspValid := false
  rspData := 0
  inputs := []
  cycleNo := 0

/-- The machine right after reset (R34, R120), built with the default parameters of R8 (log 2). -/
def State.reset : State := State.resetOf Config.defaultParams

end Sys2Proof.Machine
end

