-- ==== Sys2Proof/Machine/Ops.lean ====
section
/-! DEFINITION. The named operations the commands share: the buffer space, the response port, raising a fault,
tick arithmetic, and the input ports. -/

namespace Sys2Proof.Machine

/-! ### The buffer space (spec/20_memory.md) -/

/-- The address of (p, i): the number of the three bits `p ++ i` (R36, log 8). -/
def bufAddr (p : Pin) (i : ByteIdx) : Nat := (p ++ i).toNat

/-- The addresses that exist: two buffers of three bytes; index 3 is none (R36). -/
def bufMapped (a : Nat) : Bool := decide (a < 4 * Config.nPin) && decide (a % 4 < Config.bufBytes)

/-- The byte at an address. -/
def Memory.read : Memory → Nat → Byte
  | [], _ => Memory.unlisted
  | (b, x) :: m, a => if a = b then x else Memory.read m a

/-- Writing one byte, keeping the canonical form: the value an unlisted byte reads as is not listed. -/
def Memory.write : Memory → Nat → Byte → Memory
  | [], a, x => if x = Memory.unlisted then [] else [(a, x)]
  | (b, y) :: m, a, x =>
    if a < b then (if x = Memory.unlisted then (b, y) :: m else (a, x) :: (b, y) :: m)
    else if a = b then (if x = Memory.unlisted then m else (a, x) :: m)
    else (b, y) :: Memory.write m a x

/-- The canonical form from an address on: rising mapped addresses, no byte at its unlisted value. -/
def Memory.wfFrom : Nat → Memory → Bool
  | _, [] => true
  | lo, (a, x) :: m => decide (lo ≤ a) && bufMapped a && x != Memory.unlisted && Memory.wfFrom (a + 1) m

/-- The canonical form of the buffer space (log 8). -/
def Memory.wf (m : Memory) : Bool := Memory.wfFrom 0 m

/-- `buf[p][i]` (R11). -/
def State.readBuf (s : State) (p : Pin) (i : ByteIdx) : Byte := s.mem.read (bufAddr p i)

/-- `MemRead((p,0), 3)`: the 24 bits `buf[p][0] ++ buf[p][1] ++ buf[p][2]` (R40). -/
def State.readFrame (s : State) (p : Pin) : Frame := s.readBuf p 0#2 ++ s.readBuf p 1#2 ++ s.readBuf p 2#2

/-- `MemWrite((p,i), 1, v)`: `buf[p][i] <- v` (R39). -/
def State.writeBuf (s : State) (p : Pin) (i : ByteIdx) (v : Byte) : State :=
  { s with mem := s.mem.write (bufAddr p i) v }

/-! ### The response port (R11, R92) -/

/-- `respond(v)`: `rsp_valid = 1` and `rsp_data = zext_CNT_W(v)` in this cycle (R11). -/
def State.respond (s : State) (v : Nat) : State := { s with rspValid := true, rspData := v }

/-- The response port of a cycle in which nothing responds (R92). -/
def State.quiet (s : State) : State := { s with rspValid := false, rspData := 0 }

/-! ### Faults (spec/60_exceptions.md) -/

/-- The two fault conditions of R107. -/
inductive StickyFault where
  /-- A TX presented while `busy = 1`: STATUS bit 3, `ovr`. -/
  | overrun
  /-- A WBUF that names the reserved byte index 3: STATUS bit 4, `ill`. -/
  | illegalCommand
deriving DecidableEq, Repr

/-- Taking a fault: the command is dropped and its sticky bit set; nothing is saved, no control is
transferred and the block goes on (R108). There is nothing to return from (R109). -/
def State.raise (s : State) : StickyFault → State
  | .overrun => { s with ovr := true }
  | .illegalCommand => { s with ill := true }

/-! ### Arithmetic (R10) -/

/-- `(a - b) mod 2^TICK_W`: the exact difference, narrowed (R10). -/
def tickDiff (P : Params) (a b : Nat) : Nat := (((a : Int) - (b : Int)) % ((2 ^ P.tickW : Nat) : Int)).toNat

/-- `sat_inc_CNT_W(v)`: `v + 1` below `2^CNT_W - 1`, else `v` (R10). -/
def satInc (P : Params) (v : Nat) : Nat := if v < 2 ^ P.cntW - 1 then v + 1 else v

/-! ### The input ports (R13) -/

/-- The port values of the `k`-th cycle from now: those listed, then whatever the environment presents (log 3). -/
def State.inputAt (s : State) (k : Nat) : PortIn :=
  match s.inputs[k]? with
  | some x => x
  | none => Config.freeInput (s.cycleNo + k)

/-- `in(n)`: the port values of this cycle (R9). -/
def State.input (s : State) : PortIn := s.inputAt 0

/-- The state with the given port values in this cycle. -/
def State.present (s : State) (x : PortIn) : State := { s with inputs := x :: s.inputs.tail }

/-- The clock edge as the ports see it: this cycle's port values are spent. -/
def State.nextCycle (s : State) : State := { s with inputs := s.inputs.tail, cycleNo := s.cycleNo + 1 }

/-- The reset state of R34 in place of every register of the block, whatever they held (R120). The parameters
and the environment's port values are no registers of the block (R33). -/
def State.resetRegs (s : State) : State :=
  { State.resetOf s.params with inputs := s.inputs, cycleNo := s.cycleNo }

/-! ### Outcomes -/

/-- What follows a next state; a stop stays the stop it is. -/
def onNext (o : Host.Outcome State Fault Refusal) (f : State → State) : Host.Outcome State Fault Refusal :=
  match o with
  | .next t => .next (f t)
  | .fault r => .fault r
  | .refused r => .refused r

end Sys2Proof.Machine
end

