-- ==== Sys2Proof/Machine/Flags.lean ====
section
/-! DEFINITION. The flags that are functions of the state, and STATUS, the view of all of them
(spec/10_state.md R22, R23, R26, R30). -/

namespace Sys2Proof.Machine

/-- `busy = (ph != IDLE)`: no register (R23). -/
def State.busy (s : State) : Bool := s.ph != .idle

/-- `pressed = (value == PRESSED_LEVEL)` (R26). -/
def State.pressed (s : State) : Bool := s.value == s.params.pressedLevel

/-- What RD_VALUE returns: `pressed ++ value` (R79). -/
def State.valueWord (s : State) : BitVec 2 := BitVec.ofBool s.pressed ++ BitVec.ofBool s.value

/-- STATUS, bit 7 to bit 0 (R30, R90). -/
def State.status (s : State) : BitVec 8 :=
  BitVec.ofBool (s.shortCount != 0) ++ BitVec.ofBool s.longPending ++ BitVec.ofBool s.longFired
    ++ BitVec.ofBool s.ill ++ BitVec.ofBool s.ovr ++ BitVec.ofBool s.busy
    ++ BitVec.ofBool s.unstable ++ BitVec.ofBool s.value

/-- The source's states of the debounce filter (R22). -/
inductive DebounceState where
  | stableHigh
  | stableLow
  | unstable
deriving DecidableEq, Repr

/-- The state of the debounce filter in the source's names (R22). -/
def State.debounceState (s : State) : DebounceState :=
  if s.unstable then .unstable else if s.value then .stableHigh else .stableLow

end Sys2Proof.Machine
end

