-- ==== Sys2Proof/Machine/Encoder.lean ====
section
/-! DEFINITION. The commands of the LED encoder: WBUF, its reserved form, and TX (spec/41_led_encoder.md). -/

namespace Sys2Proof.Machine

/-- The accepted TX: the frame is copied and the engine set to its first bit (R63). -/
def State.startFrame (s : State) (p : Pin) : State :=
  { s with shreg := s.readFrame p, sel := p, ph := .bits, bitcnt := 0, cyc := 0 }

/-- WBUF with byte index 3: `ill` is set and no buffer byte is written (R62). -/
def execWbufRsvd (s : State) : Host.Outcome State Fault Refusal := .next (s.raise .illegalCommand)

/-- WBUF p, i, v: one byte of the buffer space (R61), whatever `busy` is. A term with index 3, which the decoder
never gives, is the reserved form too (R36, log 10). -/
def execWbuf (p : Pin) (i : ByteIdx) (v : Byte) (s : State) : Host.Outcome State Fault Refusal :=
  if i = 3#2 then .next (s.raise .illegalCommand) else .next (s.writeBuf p i v)

/-- TX p: a frame is started when the engine is idle (R63); otherwise the command is dropped (R64). -/
def execTx (p : Pin) (s : State) : Host.Outcome State Fault Refusal :=
  if s.busy then .next (s.raise .overrun) else .next (s.startFrame p)

end Sys2Proof.Machine
end

