-- ==== Sys2Proof/Machine/System.lean ====
section
/-! DEFINITION. The system commands NOP and RD_STATUS (spec/44_system_ops.md). -/

namespace Sys2Proof.Machine

/-- NOP: the executor writes no register (R89). -/
def execNop (s : State) : Host.Outcome State Fault Refusal := .next s

/-- RD_STATUS: the flags, with no side effect of any kind (R90). -/
def execRdStatus (s : State) : Host.Outcome State Fault Refusal := .next (s.respond s.status.toNat)

end Sys2Proof.Machine
end

