-- ==== Sys2Proof/Machine/Operands.lean ====
section
/-! DEFINITION. The operands that are not in the command word: UPDATE takes them from the ports in the cycle
it is executed (spec/30_encoding.md R51). The operands `p`, `i`, `v` stand in the command as decoded. -/

namespace Sys2Proof.Machine

/-- `raw`: the level of `btn_raw` in this cycle (R74). -/
def State.raw (s : State) : Bool := s.input.btnRaw

/-- `now`: the tick of this cycle, the low `TICK_W` bits of the port value (R74, R13, log 6). -/
def State.now (s : State) : Nat := s.input.tickMs % 2 ^ s.params.tickW

end Sys2Proof.Machine
end

