-- ==== Sys2Proof/Machine/Debounce.lean ====
section
/-! DEFINITION. The debounce filter with its edge detector, stage 1 of UPDATE, and RD_VALUE
(spec/42_debounce_filter.md). -/

namespace Sys2Proof.Machine

/-- The results of stage 1: the next `value`, `unstable`, `t_edge`, and `edge`, which is no register (R75). -/
structure DebounceResult where
  value : Bool
  unstable : Bool
  tEdge : Nat
  edge : Bool
deriving DecidableEq, Repr

/-- `DebounceStage` (R75). -/
def debounceStage (P : Params) (value unstable : Bool) (tEdge : Nat) (raw : Bool) (now : Nat) : DebounceResult :=
  if unstable = false then
    if raw ≠ value then ⟨value, true, now, false⟩
    else ⟨value, false, tEdge, false⟩
  else if raw = value then ⟨value, false, tEdge, false⟩
  else if P.debounceMs ≤ tickDiff P now tEdge then ⟨raw, false, tEdge, true⟩
  else ⟨value, true, tEdge, false⟩

/-- Stage 1 of an UPDATE executed in this cycle (R74). -/
def State.debounce (s : State) : DebounceResult :=
  debounceStage s.params s.value s.unstable s.tEdge s.raw s.now

/-- A press edge: this UPDATE makes the stable value `PRESSED_LEVEL` (R76). -/
def State.pressEdge (s : State) : Bool := s.debounce.edge && s.debounce.value == s.params.pressedLevel

/-- A release edge: this UPDATE makes the stable value other than `PRESSED_LEVEL` (R76). -/
def State.releaseEdge (s : State) : Bool := s.debounce.edge && s.debounce.value != s.params.pressedLevel

/-- RD_VALUE: bit 0 the stable level, bit 1 whether it is the pressed one; no side effect (R79). -/
def execRdValue (s : State) : Host.Outcome State Fault Refusal := .next (s.respond s.valueWord.toNat)

end Sys2Proof.Machine
end

