-- ==== Sys2Proof/Machine/Gesture.lean ====
section
/-! DEFINITION. The gesture classifier, stage 2 of UPDATE, with RD_SHORT and RD_LONG
(spec/43_gesture_classifier.md). -/

namespace Sys2Proof.Machine

/-- The results of stage 2: the next `t_press`, `long_fired`, `long_pending`, `short_count` (R82). -/
structure GestureResult where
  tPress : Nat
  longFired : Bool
  longPending : Bool
  shortCount : Nat
deriving DecidableEq, Repr

/-- `GestureStage` (R82): `value` and `edge` are the results of stage 1 of the same UPDATE. -/
def gestureStage (P : Params) (value edge : Bool) (tPress : Nat) (longFired longPending : Bool)
    (shortCount : Nat) (now : Nat) : GestureResult :=
  let held := tickDiff P now tPress
  if edge = true ∧ value = P.pressedLevel then ⟨now, false, longPending, shortCount⟩
  else if edge = true then
    if longFired = false then
      if P.longMs < held then ⟨tPress, false, true, shortCount⟩
      else ⟨tPress, false, longPending, satInc P shortCount⟩
    else ⟨tPress, false, longPending, shortCount⟩
  else if value = P.pressedLevel ∧ longFired = false ∧ P.longMs < held then ⟨tPress, true, true, shortCount⟩
  else ⟨tPress, longFired, longPending, shortCount⟩

/-- `held`: the length of the press so far at an UPDATE executed in this cycle (R82). -/
def State.held (s : State) : Nat := tickDiff s.params s.now s.tPress

/-- Stage 2 of an UPDATE executed in this cycle, on the results of its stage 1 (R74). -/
def State.gesture (s : State) : GestureResult :=
  gestureStage s.params s.debounce.value s.debounce.edge s.tPress s.longFired s.longPending s.shortCount s.now

/-- RD_SHORT: the count is returned and cleared in one step (R86). -/
def execRdShort (s : State) : Host.Outcome State Fault Refusal :=
  .next { s.respond s.shortCount with shortCount := 0 }

/-- RD_LONG: the event is returned and cleared in one step; `long_fired` stays (R87). -/
def execRdLong (s : State) : Host.Outcome State Fault Refusal :=
  .next { s.respond s.longPending.toNat with longPending := false }

end Sys2Proof.Machine
end

