-- ==== Sys2Proof/Machine/Update.lean ====
section
/-! DEFINITION. UPDATE, the command as a whole (spec/42_debounce_filter.md R74). -/

namespace Sys2Proof.Machine

/-- The registers UPDATE writes, both stages together (R74). -/
def State.setDetector (s : State) (d : DebounceResult) (g : GestureResult) : State :=
  { s with
    value := d.value, unstable := d.unstable, tEdge := d.tEdge
    tPress := g.tPress, longFired := g.longFired, longPending := g.longPending, shortCount := g.shortCount }

/-- UPDATE: the debounce stage, then the gesture stage on its results, in one cycle (R74, R112). -/
def execUpdate (s : State) : Host.Outcome State Fault Refusal := .next (s.setDetector s.debounce s.gesture)

end Sys2Proof.Machine
end

