-- ==== Sys2Proof/Machine/Dispatch.lean ====
section
/-! DEFINITION. The meaning of each command: what the executor writes in its cycle. -/

namespace Sys2Proof.Machine

def exec (i : Instr) (s : State) : Host.Outcome State Fault Refusal :=
  match i with
  | .nop => Sys2Proof.Machine.execNop s
  | .wbufRsvd => Sys2Proof.Machine.execWbufRsvd s
  | .wbuf p b v => Sys2Proof.Machine.execWbuf p b v s
  | .tx p => Sys2Proof.Machine.execTx p s
  | .update => Sys2Proof.Machine.execUpdate s
  | .rdValue => Sys2Proof.Machine.execRdValue s
  | .rdShort => Sys2Proof.Machine.execRdShort s
  | .rdLong => Sys2Proof.Machine.execRdLong s
  | .rdStatus => Sys2Proof.Machine.execRdStatus s

end Sys2Proof.Machine
end

