-- ==== Sys2Proof/Machine/Engine.lean ====
section
/-! DEFINITION. The bit engine and the outputs it drives (spec/41_led_encoder.md R65, R66). -/

namespace Sys2Proof.Machine

/-- The end of a bit period (R65, BITS with `cyc = TBIT_CYC - 1`): what it writes, read from `s`, written onto `t`. -/
def endBit (s t : State) : State :=
  if s.bitcnt = 23 then
    { t with cyc := 0, shreg := s.shreg <<< 1, bitcnt := 0, gapcnt := 0
             ph := if s.params.gapCyc = 0 then .idle else .gap }
  else { t with cyc := 0, shreg := s.shreg <<< 1, bitcnt := s.bitcnt + 1 }

/-- One step of the engine (R65). Every right-hand side is read from `s`, the state the cycle began in, and
what the engine writes is laid over `t`, what the executor made of that state: the two write disjoint
registers, since a TX is accepted only in IDLE, where the engine writes nothing (R91, log 9). A counter is at its last
cycle when its successor is the parameter (log 7). -/
def engineStep (s t : State) : State :=
  match s.ph with
  | .idle => t
  | .bits => if s.cyc + 1 = s.params.tbitCyc then endBit s t else { t with cyc := s.cyc + 1 }
  | .gap =>
    if s.gapcnt + 1 = s.params.gapCyc then { t with ph := .idle, gapcnt := 0 }
    else { t with gapcnt := s.gapcnt + 1 }

/-- `TH`: the high time of the bit being sent (R55, R66). -/
def State.highCyc (s : State) : Nat := if s.shreg.getLsbD 23 then s.params.t1hCyc else s.params.t0hCyc

/-- `led_out[q]` (R66). -/
def State.ledOut (s : State) (q : Pin) : Bool :=
  s.ph == .bits && s.sel == q && decide (s.cyc < s.highCyc)

/-- The output port `led_out`, bit q for pin q (R13). -/
def State.ledPort (s : State) : BitVec 2 := BitVec.ofBool (s.ledOut 1#1) ++ BitVec.ofBool (s.ledOut 0#1)

end Sys2Proof.Machine
end

