-- ==== Sys2Proof/Machine/Step.lean ====
section
/-! DEFINITION. One clock cycle of the block (spec/44_system_ops.md R91). -/

namespace Sys2Proof.Machine

/-- What the executor makes of this cycle: the one command on the port, or none (R50, R91). -/
def runCommand (s : State) : Host.Outcome State Fault Refusal :=
  if s.input.cmdValid then exec (decode s.input.cmd) s.quiet else .next s.quiet

/-- One clock cycle: reset wins over everything; otherwise the command and the engine's step, both applied to
the same state (R91, R112). -/
def step (s : State) : Host.Outcome State Fault Refusal :=
  if s.input.rst then .next s.resetRegs.nextCycle
  else onNext (runCommand s) (fun t => (engineStep s t).nextCycle)

/-- The state with the command word `w` on the port in the next cycle to be stepped (log 12). `btn_raw` and
`tick_ms` stay as listed for that cycle; where nothing is listed they are the released level and 0. -/
def State.withFetchWord (s : State) (nbits w : Nat) : State :=
  match s.inputs with
  | [] => s.present ⟨false, true, BitVec.ofNat 14 (w % 2 ^ nbits), !s.params.pressedLevel, 0⟩
  | x :: _ => s.present { x with rst := false, cmdValid := true, cmd := BitVec.ofNat 14 (w % 2 ^ nbits) }

end Sys2Proof.Machine
end

