-- ==== Sys2Proof/Machine/Bench.lean ====
section
/-! DEFINITION. Listings and pseudo-commands: what a test bench writes for a sequence of cycles
(spec/30_encoding.md R57, R58). Nothing here is state of the block. -/

namespace Sys2Proof.Machine

/-- One line of a listing: one clock cycle, with a command or none, and the port values it mentions (R57). -/
structure Line where
  command : Option Instr
  raw : Option Bool
  now : Option Nat
deriving DecidableEq, Repr

/-- A line that holds a command and mentions no port. -/
def Line.of (i : Instr) : Line := ⟨some i, none, none⟩

/-- The line `-`: a cycle with no command (R57). -/
def Line.idle : Line := ⟨none, none, none⟩

/-- The port values a line stands for, given the values `btn_raw` and `tick_ms` had before it. `rst` is 0 in every cycle
of a listing (spec/95_test_vectors.md). DESIGN CHOICE (log 20): `cmd` is 0 on a line `-`, of which R57 gives only
`cmd_valid = 0`; R50 and U14 leave it any value, and no step depends on it. -/
def Line.ports (l : Line) (raw : Bool) (now : Nat) : PortIn where
  rst := false
  cmdValid := l.command.isSome
  cmd := match l.command with
    | some i => encode i
    | none => 0#14
  btnRaw := l.raw.getD raw
  tickMs := l.now.getD now

/-- The port values of a listing, cycle by cycle: ports keep their last written value on lines that do not
mention them (R57). -/
def listing : Bool → Nat → List Line → List PortIn
  | _, _, [] => []
  | raw, now, l :: ls => l.ports raw now :: listing (l.raw.getD raw) (l.now.getD now) ls

/-- `TRANSMIT p, b0, b1, b2` (R58). -/
def transmit (p : Pin) (b0 b1 b2 : Byte) : List Line :=
  [Line.of (.wbuf p 0#2 b0), Line.of (.wbuf p 1#2 b1), Line.of (.wbuf p 2#2 b2), Line.of (.tx p)]

/-- `SETRGB_EXT r, g, b`: the external LED takes G, R, B (R37, R58, R95). -/
def setRgbExt (P : Params) (r g b : Byte) : List Line := transmit P.pinExt g r b

/-- `SETRGB_ONB r, g, b`: the onboard LED takes R, G, B (R37, R58, R95). -/
def setRgbOnb (P : Params) (r g b : Byte) : List Line := transmit P.pinOnb r g b

/-- `POLL [raw=b, now=t]` (R58). -/
def poll (raw : Bool) (now : Nat) : List Line :=
  [⟨some .update, some raw, some now⟩, Line.of .rdValue, Line.of .rdLong]

/-- `WAIT k` (R58). -/
def waitLines (k : Nat) : List Line := List.replicate k Line.idle

/-- The cycles for which a state stays busy when nothing resets it: what is left of the frame and its gap (R68). -/
def State.busyCycles (s : State) : Nat :=
  match s.ph with
  | .idle => 0
  | .bits => (Config.frameBits - s.bitcnt) * s.params.tbitCyc - s.cyc + s.params.gapCyc
  | .gap => s.params.gapCyc - s.gapcnt

/-- `WAITIDLE`: lines `-` until `busy = 0` (R58). -/
def waitIdle (s : State) : List Line := waitLines s.busyCycles

/-! ### Runs -/

/-- The state `n` cycles from now. A stop would leave the state where it is; there is none (R91). -/
def State.after (s : State) : Nat → State
  | 0 => s
  | n + 1 => match step (s.after n) with
    | .next t => t
    | .fault _ => s.after n
    | .refused _ => s.after n

/-- The state with a listing on the ports of its next cycles, before whatever was listed. -/
def State.list (s : State) (raw : Bool) (now : Nat) (ls : List Line) : State :=
  { s with inputs := listing raw now ls ++ s.inputs }

/-- The state after the cycles of a listing (R57). -/
def State.runLines (s : State) (raw : Bool) (now : Nat) (ls : List Line) : State := (s.list raw now ls).after ls.length

end Sys2Proof.Machine
end

