-- ==== Sys2Proof/Machine/HostLoop.lean ====
section
/-! DEFINITION. The software that drives the block in the source's scenarios: its data, the reset sequencer,
the serial parser and the main loop over the block (spec/45_host_environment.md R94 to R102). It is outside
the block (R5, R33): nothing of it stands in State and no step reads it. -/

namespace Sys2Proof.Machine

/-- A colour as the host names its channels (R94). -/
structure Colour where
  r : Byte
  g : Byte
  b : Byte
deriving DecidableEq, Repr

/-- The host's data (R94) and the level of its reset pin, active low (R97). -/
structure HostData where
  /-- PersistentColor. -/
  persistent : Colour
  /-- ResetTimer: when the pulse was started, absent when idle. -/
  resetTimer : Option Nat
  /-- InputLineBuffer: the bytes since the last line terminator. -/
  lineBuf : List Byte
  /-- The level of the reset output. -/
  resetOut : Bool
deriving DecidableEq, Repr

/-- What the source names and does not give: the default colour PersistentColor starts with (R94), the two onboard
colours (R98), the length of the short sleep of about 1 ms in clock cycles (R98, N8), and whether the host has a debug
channel (R104, U20: present or not). They are the host's choice, so arguments. -/
structure HostChoices where
  initial : Colour
  resetting : Colour
  ready : Colour
  sleepCycles : Nat
  debugChannel : Bool
deriving DecidableEq, Repr

def Colour.black : Colour := ⟨0#8, 0#8, 0#8⟩

def Colour.red : Colour := ⟨255#8, 0#8, 0#8⟩

/-- The host's data at startup (R94): the default colour, no pulse, no text; the reset output deasserted, high, as in
the state Idle (R97, R100; DEDUCED, log 19). -/
def HostData.startup (k : HostChoices) : HostData := ⟨k.initial, none, [], true⟩

/-! ### The reset sequencer (R100) -/

/-- The length of the reset pulse in milliseconds (R94, R100). -/
def resetPulseMs : Nat := 2000

/-- A trigger asserts the reset line and records the tick, overwriting a pulse in progress (R100). -/
def HostData.triggerReset (h : HostData) (now : Nat) : HostData :=
  { h with resetTimer := some now, resetOut := false }

/-- The poll of each iteration, and whether it signals completion (R100). -/
def HostData.pollReset (P : Params) (h : HostData) (now : Nat) : HostData × Bool :=
  match h.resetTimer with
  | some t =>
    if resetPulseMs < tickDiff P now t then ({ h with resetTimer := none, resetOut := true }, true) else (h, false)
  | none => (h, false)

/-! ### The serial parser (R101, R102) -/

/-- Why a line fails to parse (R101, R102). -/
inductive ParseError where
  /-- More or fewer than three fields: how many. -/
  | fieldCount (n : Nat)
  /-- A field that is no integer: the first such field. -/
  | nonNumeric (field : List Byte)
deriving DecidableEq, Repr

/-- What a line amounts to (R102). -/
inductive ParseResult where
  | ok (c : Colour)
  | discardedNoComma
  | parseFailure (reason : ParseError)
deriving DecidableEq, Repr

/-- `\n` or `\r`. -/
def isTerminator (c : Byte) : Bool := c == 10#8 || c == 13#8

/-- The white space a line may be surrounded by: space, tab, and the terminators (log 15). -/
def isBlank (c : Byte) : Bool := c == 32#8 || c == 9#8 || isTerminator c

/-- Text without the blanks around it. -/
def trimBlanks (l : List Byte) : List Byte := ((l.dropWhile isBlank).reverse.dropWhile isBlank).reverse

def isDigit (c : Byte) : Bool := decide (48 ≤ c.toNat) && decide (c.toNat ≤ 57)

/-- A digit of a base up to 16. -/
def isHexDigit (c : Byte) : Bool :=
  isDigit c || (decide (97 ≤ c.toNat) && decide (c.toNat ≤ 102)) || (decide (65 ≤ c.toNat) && decide (c.toNat ≤ 70))

/-- The base a letter names after a 0: `x` 16, `o` 8, `b` 2, `d` 10, in either case. -/
def letterBase (c : Byte) : Option Nat :=
  if c = 120#8 ∨ c = 88#8 then some 16
  else if c = 111#8 ∨ c = 79#8 then some 8
  else if c = 98#8 ∨ c = 66#8 then some 2
  else if c = 100#8 ∨ c = 68#8 then some 10
  else none

def isBaseLetter (c : Byte) : Bool := (letterBase c).isSome

/-- A digit of a base up to 10, or of base 16. -/
def isDigitOf (base : Nat) (c : Byte) : Bool :=
  if isDigit c then decide (c.toNat - 48 < base) else isHexDigit c && base == 16

/-- The fields of a line between its commas. -/
def splitCommas : List Byte → List (List Byte)
  | [] => [[]]
  | c :: cs =>
    if c = 44#8 then [] :: splitCommas cs
    else match splitCommas cs with
      | f :: fs => (c :: f) :: fs
      | [] => [[c]]

/-- The number of a row of decimal digits. -/
def digitsValue (ds : List Byte) : Nat := ds.foldl (fun n c => 10 * n + (c.toNat - 48)) 0

/-- A row of one or more decimal digits. -/
def isDecimal (f : List Byte) : Bool := !f.isEmpty && f.all isDigit

/-- A 0, a letter that names a base, and one or more digits of that base. -/
def isBased : List Byte → Bool
  | 48#8 :: b :: ds => match letterBase b with
    | some base => !ds.isEmpty && ds.all (isDigitOf base)
    | none => false
  | _ => false

/-- Text without a sign before it, if it has one. -/
def dropSign : List Byte → List Byte
  | 45#8 :: f => f
  | 43#8 :: f => f
  | f => f

/-- A field that is an integer if a sign, spaces around or after it, or a base may be written, which R101 leaves open. -/
def isOddInteger (f : List Byte) : Bool :=
  isDecimal (trimBlanks (dropSign (trimBlanks f))) || isBased (trimBlanks (dropSign (trimBlanks f)))

/-- The integer a field spells, if any: decimal digits with or without a minus sign before them; of an integer spelled
otherwise the source does not say; any other field is non-numeric (R101, log 15). -/
def fieldInteger (f : List Byte) : Option Int :=
  if isDecimal f then some (digitsValue f : Int)
  else if f.head? = some 45#8 && isDecimal f.tail then some (-(digitsValue f.tail : Int))
  else if isOddInteger f then Config.oddField f
  else none

/-- Clamping into [0, 255] (R101, spec/90_conflicts.md C4). -/
def clampByte (z : Int) : Byte := BitVec.ofInt 8 (max 0 (min 255 z))

/-- Three integer fields make a colour; a wrong number of fields, and the first field that is no integer, make a parse
failure. DESIGN CHOICE (log 15): where a line has both faults the number of fields is reported. -/
def parseFields : List (List Byte) → ParseResult
  | [f, g, h] =>
    match fieldInteger f, fieldInteger g, fieldInteger h with
    | some r, some s, some t => .ok ⟨clampByte r, clampByte s, clampByte t⟩
    | none, _, _ => .parseFailure (.nonNumeric f)
    | some _, none, _ => .parseFailure (.nonNumeric g)
    | some _, some _, none => .parseFailure (.nonNumeric h)
  | fs => .parseFailure (.fieldCount fs.length)

/-- Parsing one line (R101): trimmed, discarded silently where it has no comma, else split at its commas.
DESIGN CHOICE (log 15): an empty line, of which R101 does not say what becomes, is a line with no comma. -/
def parseLine (line : List Byte) : ParseResult :=
  if (trimBlanks line).contains 44#8 then parseFields (splitCommas (trimBlanks line)) else .discardedNoComma

/-- Newly available bytes: the host's data after them, the buffer cleared where a line was extracted, and what each line
amounts to (R101). Of the text after the one terminator, and of a buffer with several, the source does not say (log 15).
DESIGN CHOICE (log 15): a line may have any length, and bytes that are no UTF-8 text are taken as they are and rejected
by no check of their own; R101 says neither. -/
def HostData.receive (h : HostData) (bytes : List Byte) : HostData × List ParseResult :=
  let buf := h.lineBuf ++ bytes
  match buf.dropWhile (fun c => !isTerminator c) with
  | [] => ({ h with lineBuf := buf }, [])
  | _ :: rest =>
    if rest.any isTerminator then
      ({ h with lineBuf := (Config.oddBuffer buf).2 }, (Config.oddBuffer buf).1.map parseLine)
    else
      ({ h with lineBuf := if rest.isEmpty then [] else Config.oddRest buf },
        [parseLine (buf.takeWhile (fun c => !isTerminator c))])

/-- The colour PersistentColor is replaced by, if a line was accepted; the last accepted line stays (R101, log 15). -/
def acceptedColour (rs : List ParseResult) : Option Colour :=
  rs.foldl (fun c r => match r with
    | .ok d => some d
    | .discardedNoComma => c
    | .parseFailure _ => c) none

/-- The errors to report, non-fatally: one for each line that fails, none for a line without a comma (R101, R104). -/
def failureReports (rs : List ParseResult) : List ParseError :=
  rs.filterMap (fun r => match r with
    | .ok _ => none
    | .discardedNoComma => none
    | .parseFailure e => some e)

/-! ### The main loop over the block (R98, R99) -/

/-- What an iteration takes in from outside: the sample, the tick, and the serial bytes. -/
structure HostSeen where
  raw : Bool
  now : Nat
  bytes : List Byte
deriving DecidableEq, Repr

/-- The host with the block it drives, and the errors it has reported on its debug channel, if it has one (R104). -/
structure HostSystem where
  host : HostData
  block : State
  reports : List ParseError
deriving DecidableEq, Repr

/-- The host at startup beside a block (R94). -/
def HostSystem.start (k : HostChoices) (s : State) : HostSystem := ⟨.startup k, s, []⟩

/-- The host presents lines to the block; the button and the tick stay as this iteration saw them. -/
def HostSystem.cycles (w : HostSystem) (e : HostSeen) (ls : List Line) : HostSystem :=
  { w with block := w.block.runLines e.raw e.now ls }

/-- One command whose answer the host reads. -/
def HostSystem.ask (w : HostSystem) (e : HostSeen) (i : Instr) : HostSystem := w.cycles e [Line.of i]

/-- RD_VALUE's answer in the cycle just executed: bit 1, pressed (R79, R80). -/
def HostSystem.answerPressed (w : HostSystem) : Bool := w.block.rspData.testBit 1

/-- RD_LONG's answer in the cycle just executed: 1 for an event (R87). -/
def HostSystem.answerLong (w : HostSystem) : Bool := w.block.rspData == 1

/-- A frame sent as the source's blocking `transmit` sends it: its lines, then the wait for `busy = 0` (R98, log 15). -/
def HostSystem.send (w : HostSystem) (e : HostSeen) (ls : List Line) : HostSystem :=
  (w.cycles e ls).cycles e (waitIdle (w.cycles e ls).block)

/-- A colour sent to the external LED. -/
def HostSystem.sendExt (w : HostSystem) (e : HostSeen) (c : Colour) : HostSystem :=
  w.send e (setRgbExt w.block.params c.r c.g c.b)

/-- A colour sent to the onboard LED. -/
def HostSystem.sendOnb (w : HostSystem) (e : HostSeen) (c : Colour) : HostSystem :=
  w.send e (setRgbOnb w.block.params c.r c.g c.b)

/-- Step 1: one UPDATE with the sample and the tick. -/
def HostSystem.sample (w : HostSystem) (e : HostSeen) : HostSystem := w.cycles e [⟨some .update, some e.raw, some e.now⟩]

/-- The external LED's colour: red while pressed, else PersistentColor (R98, R80). -/
def HostSystem.loopColour (w : HostSystem) : Colour := if w.answerPressed then .red else w.host.persistent

/-- Step 2: RD_VALUE, and the external LED's colour. -/
def HostSystem.showColour (w : HostSystem) (e : HostSeen) : HostSystem :=
  (w.ask e .rdValue).sendExt e (w.ask e .rdValue).loopColour

/-- Step 3 on an event: both LEDs, the reset trigger, and PersistentColor zeroed (R99). -/
def HostSystem.longPress (k : HostChoices) (w : HostSystem) (e : HostSeen) : HostSystem :=
  { (w.sendExt e .black).sendOnb e k.resetting with
    host := { w.host.triggerReset e.now with persistent := .black } }

/-- Step 3: entered when RD_LONG returns 1. -/
def HostSystem.longStep (k : HostChoices) (w : HostSystem) (e : HostSeen) : HostSystem :=
  if (w.ask e .rdLong).answerLong then (w.ask e .rdLong).longPress k e else w.ask e .rdLong

/-- Step 4: the reset sequencer polled, the ready colour on its completion. -/
def HostSystem.resetStep (k : HostChoices) (w : HostSystem) (e : HostSeen) : HostSystem :=
  let r := w.host.pollReset w.block.params e.now
  if r.2 then HostSystem.sendOnb { w with host := r.1 } e k.ready else { w with host := r.1 }

/-- An accepted serial colour: PersistentColor replaced, and sent at once where the button is released (R101). -/
def HostSystem.accept (w : HostSystem) (e : HostSeen) (c : Colour) : HostSystem :=
  let v := { w with host := { w.host with persistent := c } }.ask e .rdValue
  if v.answerPressed then v else v.sendExt e c

/-- The errors reported on the debug channel if there is one. DESIGN CHOICE (log 19): a host without it reports a failed
line nowhere; R104 and R110 say only "if available". -/
def HostSystem.report (k : HostChoices) (w : HostSystem) (es : List ParseError) : HostSystem :=
  { w with reports := if k.debugChannel then w.reports ++ es else w.reports }

/-- Step 5: the serial bytes, the errors reported, an accepted colour. -/
def HostSystem.serialStep (k : HostChoices) (w : HostSystem) (e : HostSeen) : HostSystem :=
  let r := w.host.receive e.bytes
  let v := HostSystem.report k { w with host := r.1 } (failureReports r.2)
  match acceptedColour r.2 with
  | some c => v.accept e c
  | none => v

/-- Step 6: the short sleep, in which the host presents no command. -/
def HostSystem.sleep (k : HostChoices) (w : HostSystem) (e : HostSeen) : HostSystem := w.cycles e (waitLines k.sleepCycles)

/-- One iteration, in the order of R98. -/
def HostSystem.iteration (k : HostChoices) (w : HostSystem) (e : HostSeen) : HostSystem :=
  (((((w.sample e).showColour e).longStep k e).resetStep k e).serialStep k e).sleep k e

/-- The unbounded loop: the host and the block after `n` iterations, for every `n`, on whatever the host sees in each
(R98, R104). -/
def HostSystem.loop (k : HostChoices) (w : HostSystem) (seen : Nat → HostSeen) : Nat → HostSystem
  | 0 => w
  | n + 1 => (HostSystem.loop k w seen n).iteration k (seen n)

end Sys2Proof.Machine
end

