-- ==== Sys2Proof/Safety.lean ====
section
/-! DEFINITION. The terms the claims about the block are stated in: runs, the command of a cycle, groups of
registers, the invariant, and what a safe run is. -/

namespace Sys2Proof.Machine

/-! ### Cycles and runs -/

/-- The command executed in this cycle, if any: `rst = 1` and `cmd_valid = 0` leave none (R50, R112). -/
def State.command (s : State) : Option Instr :=
  if s.input.rst = false ∧ s.input.cmdValid = true then some (decode s.input.cmd) else none

/-- No reset is applied in the next `n` cycles. -/
def State.noReset (s : State) (n : Nat) : Prop := ∀ k < n, (s.inputAt k).rst = false

/-! ### Groups of registers -/

/-- The registers of the bit engine (R15, R16, R21). -/
structure EngineRegs where
  shreg : Frame
  sel : Pin
  ph : Phase
  bitcnt : Nat
  cyc : Nat
  gapcnt : Nat
deriving DecidableEq, Repr

/-- The engine's registers in a state. -/
def State.engine (s : State) : EngineRegs := ⟨s.shreg, s.sel, s.ph, s.bitcnt, s.cyc, s.gapcnt⟩

/-- The registers of the detector (R17 to R19, R22, R28, R29). -/
structure DetectorRegs where
  value : Bool
  unstable : Bool
  tEdge : Nat
  tPress : Nat
  longFired : Bool
  longPending : Bool
  shortCount : Nat
deriving DecidableEq, Repr

/-- The detector's registers in a state. -/
def State.detector (s : State) : DetectorRegs :=
  ⟨s.value, s.unstable, s.tEdge, s.tPress, s.longFired, s.longPending, s.shortCount⟩

/-! ### The invariant -/

/-- The engine's registers agree with its phase: they point inside the frame (R21), are 0 in IDLE (R115), and
the bits already sent have left `shreg` (R15). -/
def State.engineOk (s : State) : Prop :=
  match s.ph with
  | .idle => s.shreg = 0#24 ∧ s.bitcnt = 0 ∧ s.cyc = 0 ∧ s.gapcnt = 0
  | .bits => s.bitcnt < Config.frameBits ∧ s.cyc < s.params.tbitCyc ∧ s.gapcnt = 0 ∧ s.shreg.toNat % 2 ^ s.bitcnt = 0
  | .gap => s.shreg = 0#24 ∧ s.bitcnt = 0 ∧ s.cyc = 0 ∧ s.gapcnt < s.params.gapCyc

/-- The invariant of the block. -/
structure Inv (s : State) : Prop where
  /-- The parameters keep the constraints of R8. -/
  params_wf : s.params.wf = true
  /-- The buffer space is in its canonical form (R36, log 8). -/
  mem_wf : s.mem.wf = true
  /-- The frame position is one the spec gives (R21). -/
  engine_ok : s.engineOk
  /-- A tick register holds `TICK_W` bits (R17, R18). -/
  tEdge_lt : s.tEdge < 2 ^ s.params.tickW
  tPress_lt : s.tPress < 2 ^ s.params.tickW
  /-- The count holds `CNT_W` bits (R19). -/
  shortCount_lt : s.shortCount < 2 ^ s.params.cntW
  /-- The response port holds `CNT_W` bits, and 0 where nothing responds (R92). -/
  rspData_lt : s.rspData < 2 ^ s.params.cntW
  rsp_quiet : s.rspValid = false → s.rspData = 0
  /-- A long press is active only while the button is pressed (R28, spec/95_test_vectors.md V-ST10). -/
  fired_pressed : s.longFired = true → s.pressed = true

/-! ### Host duties -/

/-- The commands of a host that keeps its duties in a cycle: no TX while busy, no reserved form (R108, R126). -/
def State.dutiful (s : State) : Prop :=
  (∀ p, s.command = some (.tx p) → s.busy = false) ∧ s.command ≠ some .wbufRsvd

/-- A safe state: one in which the host has broken no duty so far (R108). -/
def State.safe (s : State) : Prop := s.ovr = false ∧ s.ill = false

/-! ### Events of the detector -/

/-- The UPDATE of this cycle finds a press longer than `LONG_MS` (R84). -/
def State.findsLong (s : State) : Prop :=
  s.command = some .update ∧ s.pressed = true ∧ s.params.longMs < s.held

/-- The long-press event fires in this cycle: on a held press, or late, at its release edge (R82, R84). -/
def State.fires (s : State) : Prop := s.findsLong ∧ s.longFired = false

/-! ### The other reading of the debounce filter (R78) -/

/-- The registers of the restart-the-timer filter: `last` is the level of the last sample. DEDUCED (log 14). -/
structure RestartFilter where
  value : Bool
  unstable : Bool
  last : Bool
  since : Nat
deriving DecidableEq, Repr

/-- One UPDATE of the restart-the-timer filter: while unstable, a sample at another level than the last restarts
the timer, and a level held for the window, the old one or the new, makes the filter stable (R78; DEDUCED, log 14). The
edge says whether the stable value changed. -/
def RestartFilter.update (P : Params) (f : RestartFilter) (raw : Bool) (now : Nat) : RestartFilter × Bool :=
  if f.unstable = false then
    if raw ≠ f.value then ({ f with unstable := true, last := raw, since := now }, false) else (f, false)
  else if raw ≠ f.last then ({ f with last := raw, since := now }, false)
  else if P.debounceMs ≤ tickDiff P now f.since then ({ f with value := raw, unstable := false }, raw != f.value)
  else (f, false)

/-- The filter of R75 on its own, one UPDATE: its registers and the edge. -/
def spikeFilter (P : Params) (f : DebounceResult) (raw : Bool) (now : Nat) : DebounceResult :=
  debounceStage P f.value f.unstable f.tEdge raw now

end Sys2Proof.Machine
end

