-- ==== Sys2Proof/Certificates/Slice0/Obligations.lean ====
section
/-! DEFINITION. The statements about the block, one Prop each, for the provers.

Every rule of spec/ that carries a decision mark (D1 to D29) is a rule of the spec. A rule, or a sentence, that the spec
marks as derived is its own inference: a statement that rests on one is listed as derived in OBLIGATIONS.json. -/

open Sys2Proof Sys2Proof.Machine

/-! ### Encodings (spec/30_encoding.md) -/

/-- Decoding and encoding agree in both directions: a well-formed command comes back from its word with every
operand, a word comes back from its command in every bit the command reads, and the decoder gives well-formed
commands only (R50, R51, R52, R57). -/
def Obligations.DecodeEncodeRoundTrip : Prop :=
  (∀ i : Instr, i.wf = true → decode (encode i) = i) ∧
  (∀ w : CmdWord, encode (decode w) = w &&& usedMask (decode w)) ∧
  (∀ w : CmdWord, (decode w).wf = true)

/-- R52: a word selects the row whose match it has under the row's mask, the reserved form before WBUF; among
the eight opcode rows it selects exactly one. -/
def Obligations.WordSelectsItsRow : Prop :=
  (∀ w : CmdWord, (opcodeTable.find? (fun r => r.selects w)).map OpRow.mnemonic = some (decode w).mnemonic) ∧
  (∀ w : CmdWord, ((opcodeTable.filter (fun r => r.mnemonic != "WBUF.RSVD")).filter (fun r => r.selects w)).length = 1)

/-- R50: the word is `vvvvvvvviipooo`, bit by bit; in every cycle with `cmd_valid = 1` (and no reset) the step executes the
command of the word, and with `cmd_valid = 0` it executes none, whatever the value of `cmd`, which is ignored. -/
def Obligations.CommandWordFormat : Prop :=
  (∀ (v : Byte) (i : ByteIdx) (p : Pin) (op : BitVec 3),
    (∀ k < 3, (pack v i p op).getLsbD k = op.getLsbD k) ∧ (pack v i p op).getLsbD 3 = p.getLsbD 0 ∧
    (∀ k < 2, (pack v i p op).getLsbD (4 + k) = i.getLsbD k) ∧
    (∀ k < 8, (pack v i p op).getLsbD (6 + k) = v.getLsbD k) ∧
    CmdWord.op (pack v i p op) = op ∧ CmdWord.p (pack v i p op) = p ∧
    CmdWord.i (pack v i p op) = i ∧ CmdWord.v (pack v i p op) = v) ∧
  (∀ s : State, s.input.rst = false → s.input.cmdValid = true →
    s.command = some (decode s.input.cmd) ∧
    ∃ t, exec (decode s.input.cmd) s.quiet = .next t ∧ step s = .next (engineStep s t).nextCycle) ∧
  (∀ s : State, s.input.rst = false → s.input.cmdValid = false →
    s.command = none ∧ step s = .next (engineStep s s.quiet).nextCycle) ∧
  (∀ (s : State) (x : PortIn) (w : CmdWord), x.cmdValid = false →
    ∃ t, step (s.present x) = .next t ∧ step (s.present { x with cmd := w }) = .next t)

/-- R51: a field a command does not use may hold any value: two words that agree where the command of one of
them reads have the same command. -/
def Obligations.UnusedFieldsIgnored : Prop :=
  ∀ w w' : CmdWord, w &&& usedMask (decode w) = w' &&& usedMask (decode w) → decode w' = decode w

/-- Words written out from R59 and spec/95_test_vectors.md V-E1 to V-E15 decode to the commands they stand for. -/
def Obligations.SpecWordsDecode : Prop :=
  decode 0x0000#14 = .nop ∧ decode 0x3FF8#14 = .nop ∧ decode 0x0501#14 = .wbuf 0#1 0#2 20#8 ∧
  decode 0x07A1#14 = .wbuf 0#1 2#2 30#8 ∧ decode 0x3FE9#14 = .wbuf 1#1 2#2 255#8 ∧
  decode 0x0031#14 = .wbufRsvd ∧ decode 0x3FF9#14 = .wbufRsvd ∧ decode 0x000A#14 = .tx 1#1 ∧
  decode 0x2AAA#14 = .tx 1#1 ∧ decode 0x3FFB#14 = .update ∧ decode 0x0004#14 = .rdValue ∧
  decode 0x0005#14 = .rdShort ∧ decode 0x0006#14 = .rdLong ∧ decode 0x3FFF#14 = .rdStatus

/-! ### The step (spec/44_system_ops.md) -/

/-- R91: under reset the reset state; otherwise the command of the port, decoded, and the engine's step, both
applied to the state the cycle began in, or the engine's step alone; a cycle always has a next state; and the two never
write the same register: outside IDLE a command leaves the engine's registers alone, in IDLE the engine writes none, and
what the engine writes at all is `shreg`, `ph`, `bitcnt`, `cyc`, `gapcnt` and no other field. That the engine's writes are
laid over the executor's is the model's reading of "together" (log 9). -/
def Obligations.StepRunsDecodedCommand : Prop :=
  (∀ s : State, s.input.rst = true → step s = .next s.resetRegs.nextCycle) ∧
  (∀ s : State, s.input.rst = false → s.input.cmdValid = true →
    step s = onNext (exec (decode s.input.cmd) s.quiet) (fun t => (engineStep s t).nextCycle)) ∧
  (∀ s : State, s.input.rst = false → s.input.cmdValid = false → step s = .next (engineStep s s.quiet).nextCycle) ∧
  (∀ s : State, ∃ t, step s = .next t) ∧
  (∀ (i : Instr) (s : State), s.ph ≠ .idle → ∃ t, exec i s = .next t ∧ t.engine = s.engine) ∧
  (∀ s t : State, s.ph = .idle → engineStep s t = t) ∧
  (∀ s t : State, ∃ u, engineStep s t = u ∧
    u = { t with shreg := u.shreg, ph := u.ph, bitcnt := u.bitcnt, cyc := u.cyc, gapcnt := u.gapcnt })

/-- A command word placed for the next cycle is what that cycle runs: if the decoder on the table's numbering
reads the command i from w, the step of the state that holds w runs exec on i, and the engine, and nothing else. -/
def Obligations.FetchWordIsRunNext : Prop :=
  ∀ (s : State) (n w : Nat) (i : Instr), decodeTableWord n w = some i →
    (s.withFetchWord n w).command = some i ∧
    step (s.withFetchWord n w) =
      onNext (exec i (s.withFetchWord n w).quiet) (fun t => (engineStep (s.withFetchWord n w) t).nextCycle)

/-- The block never stops: every run of every length from every state has its states, none of them a fault or a
refusal (R91: there is no halt state). It is what makes `State.after` the states of a run. -/
def Obligations.BlockNeverStops : Prop :=
  ∀ (n : Nat) (s : State), Host.Core.run Sys2Proof.core n s = .next (s.after n)

/-- R89: opcode 000 is NOP; the executor writes nothing for it, and a cycle with `cmd_valid = 0` behaves exactly as one with a NOP,
whatever the other ports hold: only the engine's position moves, and the response port is quiet. -/
def Obligations.NopLikeNoCommand : Prop :=
  (∀ w : CmdWord, decode w = .nop ↔ CmdWord.op w = 0#3) ∧ (∀ s : State, exec .nop s = .next s) ∧
  (∀ (s : State) (x y : PortIn), x.rst = false → y.rst = false → x.cmdValid = true → decode x.cmd = .nop →
    y.cmdValid = false →
    ∃ t, step (s.present x) = .next t ∧ step (s.present y) = .next t ∧
      t = { s with shreg := t.shreg, ph := t.ph, bitcnt := t.bitcnt, cyc := t.cyc, gapcnt := t.gapcnt,
                   rspValid := false, rspData := 0, inputs := s.inputs.tail, cycleNo := s.cycleNo + 1 })

/-- Ports are read only where the spec samples them: two cycles without reset that present the same command, or
none, and, where it is UPDATE, the same level and the same tick modulo `2^TICK_W`, have the same next state
(spec/93_implementation_defined.md U14). -/
def Obligations.UnsampledPortsDoNotMatter : Prop :=
  ∀ (s : State) (x y : PortIn), x.rst = false → y.rst = false →
    (s.present x).command = (s.present y).command →
    ((s.present x).command = some .update →
      x.btnRaw = y.btnRaw ∧ x.tickMs % 2 ^ s.params.tickW = y.tickMs % 2 ^ s.params.tickW) →
    step (s.present x) = step (s.present y)

/-- R92: a response is present in the cycle of a RD_VALUE, RD_SHORT, RD_LONG or RD_STATUS, with the value its rule
gives computed from the state that cycle began in, and in every other cycle `rsp_valid = 0` and `rsp_data = 0`. -/
def Obligations.ResponsePort : Prop :=
  ∀ s : State, ∃ t, step s = .next t ∧
    (s.command = some .rdValue → t.rspValid = true ∧ t.rspData = s.valueWord.toNat) ∧
    (s.command = some .rdShort → t.rspValid = true ∧ t.rspData = s.shortCount) ∧
    (s.command = some .rdLong → t.rspValid = true ∧ t.rspData = s.longPending.toNat) ∧
    (s.command = some .rdStatus → t.rspValid = true ∧ t.rspData = s.status.toNat) ∧
    (s.command ≠ some .rdValue → s.command ≠ some .rdShort → s.command ≠ some .rdLong →
      s.command ≠ some .rdStatus → t.rspValid = false ∧ t.rspData = 0)

/-! ### WBUF (spec/41_led_encoder.md, spec/20_memory.md) -/

/-- R61: WBUF p, i, v with i below 3, opcode 001 with its operands in bits 3, 5:4 and 13:6, writes v to `buf[p][i]`,
whatever `busy` is; the other five bytes, and every other address, read as before, and nothing else in the state changes. -/
def Obligations.WbufWritesOneByte : Prop :=
  ∀ (s : State) (p : Pin) (i : ByteIdx) (v : Byte), s.mem.wf = true → i ≠ 3#2 →
    (∀ w : CmdWord, decode w = .wbuf p i v ↔ CmdWord.op w = 1#3 ∧ CmdWord.p w = p ∧ CmdWord.i w = i ∧ CmdWord.v w = v) ∧
    ∃ t, exec (.wbuf p i v) s = .next t ∧ t.readBuf p i = v ∧
      (∀ (q : Pin) (j : ByteIdx), (q ≠ p ∨ j ≠ i) → t.readBuf q j = s.readBuf q j) ∧
      (∀ a, a ≠ bufAddr p i → t.mem.read a = s.mem.read a) ∧
      t = { s with mem := t.mem }

/-- R62: a WBUF word with index 3, whatever p and v, is the reserved form; it sets `ill` and nothing else, and so
does a WBUF term with index 3: such a term the decoder never gives, and that it stands for the reserved form is the model's
choice (log 10). -/
def Obligations.ReservedWbufSetsIll : Prop :=
  (∀ w : CmdWord, decode w = .wbufRsvd ↔ CmdWord.op w = 1#3 ∧ CmdWord.i w = 3#2) ∧
  (∀ s : State, exec .wbufRsvd s = .next { s with ill := true }) ∧
  (∀ (s : State) (p : Pin) (v : Byte), exec (.wbuf p 3#2 v) s = .next { s with ill := true })

/-- The buffer space changes by WBUF and reset only: in a cycle without reset that executes no WBUF with index
below 3 every byte reads as before (R14, R40, R44). -/
def Obligations.BufferChangesByWbufOnly : Prop :=
  ∀ s : State, s.input.rst = false → (∀ p i v, s.command ≠ some (.wbuf p i v)) →
    ∃ t, step s = .next t ∧ t.mem = s.mem ∧ ∀ a, t.mem.read a = s.mem.read a

/-! ### TX and the bit engine (spec/41_led_encoder.md) -/

/-- R63: TX p is opcode 010 with p in bit 3; a TX p while `ph = IDLE` copies the three bytes of its buffer as they stand, latches p, and sets the engine
to the first bit; nothing else changes, `busy` becomes 1, and the first high cycle on the wire is the next one. -/
def Obligations.TxStartsFrame : Prop :=
  ∀ (s : State) (p : Pin), s.ph = .idle →
    (∀ w : CmdWord, decode w = .tx p ↔ CmdWord.op w = 2#3 ∧ CmdWord.p w = p) ∧
    ∃ t, exec (.tx p) s = .next t ∧
      t = { s with shreg := s.readBuf p 0#2 ++ s.readBuf p 1#2 ++ s.readBuf p 2#2
                   sel := p, ph := .bits, bitcnt := 0, cyc := 0 } ∧
      t.busy = true ∧ (s.params.wf = true → t.ledOut p = true)

/-- The order on the wire: of the frame an accepted TX p loads, the bit sent as number k, bit 23 - k of `shreg`, is
bit 7 - (k mod 8) of `buf[p][k div 8]`: index 0 first, most significant bit first (R38). -/
def Obligations.WireBitOrder : Prop :=
  ∀ (s : State) (p : Pin), s.ph = .idle →
    ∃ t, exec (.tx p) s = .next t ∧
      ∀ k < Config.frameBits,
        t.shreg.getLsbD (23 - k) = (s.readBuf p (BitVec.ofNat 2 (k / 8))).getLsbD (7 - k % 8)

/-- R64: a TX p while `ph` is BITS or GAP sets `ovr` and changes nothing else; in a whole cycle the frame in flight
goes on as if no command had come, even in the engine's last busy cycle, and no second frame is queued. -/
def Obligations.TxWhileBusyIsDropped : Prop :=
  (∀ (s : State) (p : Pin), s.ph ≠ .idle → exec (.tx p) s = .next { s with ovr := true }) ∧
  (∀ (s : State) (x : PortIn) (p : Pin), s.ph ≠ .idle → x.rst = false → x.cmdValid = true → decode x.cmd = .tx p →
    ∃ t, step (s.present { x with cmdValid := false }) = .next t ∧ step (s.present x) = .next { t with ovr := true })

/-- R65: what the engine makes of a cycle, in the state the invariant describes: reset sends it to IDLE; without reset,
in IDLE nothing but an accepted TX; in BITS the next cycle of the bit, or the next bit, or the end of the frame; in GAP
the next cycle of the gap, or its end. No other command, and no other port, has a part in it. -/
def Obligations.EngineStepOfCycle : Prop :=
  ∀ s : State, Inv s → ∃ t, step s = .next t ∧
    (s.input.rst = true → t.ph = .idle) ∧
    (s.input.rst = false →
      (s.ph = .idle → (∀ p, s.command ≠ some (.tx p)) → t.engine = s.engine) ∧
      (∀ p, s.ph = .idle → s.command = some (.tx p) → t.engine = ⟨s.readFrame p, p, .bits, 0, 0, s.gapcnt⟩) ∧
      (s.ph = .bits → s.cyc ≠ s.params.tbitCyc - 1 →
        t.engine = ⟨s.shreg, s.sel, .bits, s.bitcnt, s.cyc + 1, s.gapcnt⟩) ∧
      (s.ph = .bits → s.cyc = s.params.tbitCyc - 1 → s.bitcnt ≠ 23 →
        t.engine = ⟨s.shreg <<< 1, s.sel, .bits, s.bitcnt + 1, 0, s.gapcnt⟩) ∧
      (s.ph = .bits → s.cyc = s.params.tbitCyc - 1 → s.bitcnt = 23 →
        t.engine = ⟨s.shreg <<< 1, s.sel, if s.params.gapCyc = 0 then .idle else .gap, 0, 0, 0⟩) ∧
      (s.ph = .gap → s.gapcnt = s.params.gapCyc - 1 → t.engine = ⟨s.shreg, s.sel, .idle, s.bitcnt, s.cyc, 0⟩) ∧
      (s.ph = .gap → s.gapcnt ≠ s.params.gapCyc - 1 →
        t.engine = ⟨s.shreg, s.sel, .gap, s.bitcnt, s.cyc, s.gapcnt + 1⟩))

/-- The phase changes by four events only: an accepted TX from IDLE, the end of the 24th bit from BITS, the end of
the gap from GAP, and reset from anywhere (R65, the sentence on state transitions). -/
def Obligations.PhaseChangesOnlyBy : Prop :=
  ∀ s : State, Inv s → ∃ t, step s = .next t ∧
    (t.ph ≠ s.ph →
      (s.input.rst = true ∧ t.ph = .idle) ∨
      (s.ph = .idle ∧ t.ph = .bits ∧ ∃ p, s.command = some (.tx p)) ∨
      (s.ph = .bits ∧ s.cyc = s.params.tbitCyc - 1 ∧ s.bitcnt = 23 ∧
        t.ph = if s.params.gapCyc = 0 then .idle else .gap) ∨
      (s.ph = .gap ∧ s.gapcnt = s.params.gapCyc - 1 ∧ t.ph = .idle))

/-- R66: `led_out` and `busy` are these functions of the state of the same cycle; so the pin not selected is low,
both are low in IDLE and in GAP, and the two are never high together. -/
def Obligations.OutputsOfState : Prop :=
  ∀ s : State,
    (∀ q, s.ledOut q = true ↔ s.ph = .bits ∧ s.sel = q ∧
      s.cyc < if s.shreg.getLsbD 23 = true then s.params.t1hCyc else s.params.t0hCyc) ∧
    (s.busy = true ↔ s.ph ≠ .idle) ∧
    (∀ q, q ≠ s.sel → s.ledOut q = false) ∧
    (∀ q, s.ph ≠ .bits → s.ledOut q = false) ∧
    ¬(s.ledOut 0#1 = true ∧ s.ledOut 1#1 = true) ∧
    s.ledPort.getLsbD 0 = s.ledOut 0#1 ∧ s.ledPort.getLsbD 1 = s.ledOut 1#1

/-- The closed form of a frame: after a TX accepted in a cycle, for every offset d up to 24 bit periods, with no reset
on the way and whatever else the ports hold, the engine is in bit (d - 1) div `TBIT_CYC` at cycle (d - 1) mod
`TBIT_CYC` of it, `shreg` is the frame shifted by that many bits, and the pin is high exactly in the first `T1H_CYC` or
`T0H_CYC` cycles of its bit, the other pin low throughout. This is the spec's sentence of R67, which it derives from
R63, R65 and R66. -/
def Obligations.FrameClosedForm : Prop :=
  ∀ (s : State) (p : Pin) (d : Nat), Inv s → s.ph = .idle → s.command = some (.tx p) →
    1 ≤ d → d ≤ Config.frameBits * s.params.tbitCyc → s.noReset d →
    (s.after d).engine = ⟨s.readFrame p <<< ((d - 1) / s.params.tbitCyc), p, .bits, (d - 1) / s.params.tbitCyc,
      (d - 1) % s.params.tbitCyc, 0⟩ ∧
    ((s.after d).ledOut p = true ↔
      (d - 1) % s.params.tbitCyc <
        if (s.readFrame p).getLsbD (23 - (d - 1) / s.params.tbitCyc) = true then s.params.t1hCyc else s.params.t0hCyc) ∧
    (∀ q, q ≠ p → (s.after d).ledOut q = false)

/-- The length of a frame: after a TX accepted in a cycle, `busy = 1` in exactly the next 24 x `TBIT_CYC` + `GAP_CYC`
cycles, with both pins low in the gap, and in the cycle after them a TX is accepted. This is the spec's sentence of
R68, which it derives from R67 and R69. -/
def Obligations.FrameLength : Prop :=
  ∀ (s : State) (p : Pin), Inv s → s.ph = .idle → s.command = some (.tx p) →
    s.noReset (Config.frameBits * s.params.tbitCyc + s.params.gapCyc + 1) →
    s.busy = false ∧
    (∀ d, 1 ≤ d → d ≤ Config.frameBits * s.params.tbitCyc + s.params.gapCyc → (s.after d).busy = true) ∧
    (∀ d q, Config.frameBits * s.params.tbitCyc < d → d ≤ Config.frameBits * s.params.tbitCyc + s.params.gapCyc →
      (s.after d).ledOut q = false) ∧
    (s.after (Config.frameBits * s.params.tbitCyc + s.params.gapCyc + 1)).engine = ⟨0#24, p, .idle, 0, 0, 0⟩

/-- Nothing but reset changes a frame in flight: two runs without reset from states with the same engine and
parameters, whatever else they hold and whatever their ports present, have the same engine for as long as the frame
and its gap last, and the same outputs (R71, which the spec derives from R64 and R65). -/
def Obligations.FrameInFlightUndisturbed : Prop :=
  ∀ (s u : State) (n : Nat), s.engine = u.engine → s.params = u.params → s.noReset n → u.noReset n →
    (∀ k < n, (s.after k).busy = true) →
    (s.after n).engine = (u.after n).engine ∧ (s.after n).ledPort = (u.after n).ledPort

/-- Waiting ends: from any state of the invariant, with no reset on the way, the engine is busy for exactly
`State.busyCycles` cycles more and then idle, whatever commands are presented meanwhile (R58 WAITIDLE, R68). -/
def Obligations.BusyEndsInTime : Prop :=
  ∀ s : State, Inv s → s.noReset s.busyCycles →
    (∀ d < s.busyCycles, (s.after d).busy = true) ∧ (s.after s.busyCycles).busy = false

/-- The durations on the wire with the default parameters: 800 and 450 ns high, 1250 ns in all, 30 µs a frame (R55's
table, which the spec derives from the source's figures, and R135), each without rounding (log 18); and for any block
whose cycle counts are its three durations exactly, the durations on the wire are these. -/
def Obligations.DefaultWireDurations : Prop :=
  let P := Config.defaultParams
  P.cyclesNs P.t1hCyc = 800 ∧ P.cyclesNs P.t0hCyc = 450 ∧ P.cyclesNs P.tbitCyc = 1250 ∧
  P.cyclesNs (P.tbitCyc - P.t1hCyc) = 450 ∧ P.cyclesNs (P.tbitCyc - P.t0hCyc) = 800 ∧
  P.cyclesNs (Config.frameBits * P.tbitCyc) = 30000 ∧ P.lasts (Config.frameBits * P.tbitCyc) 30000 = true ∧
  P.exact = true ∧
  (∀ Q : Params, Q.exact = true →
    Q.cyclesNs Q.t1hCyc = Q.t1hNs ∧ Q.cyclesNs Q.t0hCyc = Q.t0hNs ∧ Q.cyclesNs Q.tbitCyc = Q.tbitNs)

/-! ### Faults (spec/60_exceptions.md) -/

/-- R107 and R109: the two fault bits, exactly. In a cycle without reset `ovr` becomes 1 by a TX presented while busy
and by nothing else, `ill` by a WBUF with the reserved index and by nothing else; each stays 1 once set, whatever
happens to the other; only reset clears them; STATUS shows them in bits 3 and 4. -/
def Obligations.FaultBitsExactly : Prop :=
  ∀ s : State, ∃ t, step s = .next t ∧
    (s.input.rst = false →
      (t.ovr = true ↔ s.ovr = true ∨ (s.busy = true ∧ ∃ p, s.command = some (.tx p))) ∧
      (t.ill = true ↔ s.ill = true ∨ s.command = some .wbufRsvd)) ∧
    (s.input.rst = true → t.ovr = false ∧ t.ill = false) ∧
    s.status.getLsbD 3 = s.ovr ∧ s.status.getLsbD 4 = s.ill

/-- R108: a faulting command is dropped: its cycle ends in the state a cycle without any command ends in, but for the
sticky bit it sets. And the sticky bits change nothing in what follows but themselves and the answer of RD_STATUS: two
states that differ in them alone have next states that differ in them alone. -/
def Obligations.FaultingCommandIsDropped : Prop :=
  (∀ (s : State) (x : PortIn), x.rst = false → x.cmdValid = true →
    ∃ t, step (s.present { x with cmdValid := false }) = .next t ∧
      (∀ p, decode x.cmd = .tx p → s.busy = true → step (s.present x) = .next (t.raise .overrun)) ∧
      (decode x.cmd = .wbufRsvd → step (s.present x) = .next (t.raise .illegalCommand))) ∧
  (∀ (s : State) (a b : Bool), ∃ t u, step s = .next t ∧ step { s with ovr := a, ill := b } = .next u ∧
    u = { t with ovr := u.ovr, ill := u.ill, rspData := u.rspData } ∧
    (s.command ≠ some .rdStatus → u.rspData = t.rspData))

/-- A host that keeps its duties never sees a fault bit: from a safe state, a run in which no cycle presents a TX while
busy or a reserved WBUF stays safe (R108, R126). -/
def Obligations.DutifulHostStaysSafe : Prop :=
  ∀ (s : State) (n : Nat), s.safe → (∀ k < n, (s.after k).dutiful) → (s.after n).safe

/-! ### UPDATE, the debounce filter (spec/42_debounce_filter.md) -/

/-- UPDATE completes in every state and writes the seven registers of the detector and no other: no register of the
encoder, no buffer byte, no fault bit, no response, whatever `busy` is (R74). -/
def Obligations.UpdateWritesDetectorOnly : Prop :=
  ∀ s : State, ∃ t, exec .update s = .next t ∧
    t = { s with value := t.value, unstable := t.unstable, tEdge := t.tEdge, tPress := t.tPress
                 longFired := t.longFired, longPending := t.longPending, shortCount := t.shortCount } ∧
    t.mem = s.mem ∧ t.engine = s.engine ∧ t.ovr = s.ovr ∧ t.ill = s.ill ∧ (∀ a, t.mem.read a = s.mem.read a)

/-- R75: the debounce stage of an UPDATE, case by case, with the level and the tick of its cycle. The edge is 1 exactly
where the stable value changes. -/
def Obligations.DebounceStageOfUpdate : Prop :=
  ∀ s : State, ∃ t, exec .update s = .next t ∧
    (s.unstable = false → s.input.btnRaw ≠ s.value →
      t.value = s.value ∧ t.unstable = true ∧ t.tEdge = s.input.tickMs % 2 ^ s.params.tickW) ∧
    (s.unstable = false → s.input.btnRaw = s.value → t.value = s.value ∧ t.unstable = false ∧ t.tEdge = s.tEdge) ∧
    (s.unstable = true → s.input.btnRaw = s.value → t.value = s.value ∧ t.unstable = false ∧ t.tEdge = s.tEdge) ∧
    (s.unstable = true → s.input.btnRaw ≠ s.value →
      s.params.debounceMs ≤ tickDiff s.params (s.input.tickMs % 2 ^ s.params.tickW) s.tEdge →
      t.value = s.input.btnRaw ∧ t.unstable = false ∧ t.tEdge = s.tEdge) ∧
    (s.unstable = true → s.input.btnRaw ≠ s.value →
      tickDiff s.params (s.input.tickMs % 2 ^ s.params.tickW) s.tEdge < s.params.debounceMs →
      t.value = s.value ∧ t.unstable = true ∧ t.tEdge = s.tEdge) ∧
    (s.debounce.edge = true ↔ t.value ≠ s.value)

/-- The stable value changes by an UPDATE only, and there only out of the unstable state, with the raw level other than
the stable one for at least the debounce window since the first such sample (R26, R75). -/
def Obligations.ValueChangesOnlyAfterWindow : Prop :=
  ∀ s : State, ∃ t, step s = .next t ∧
    (s.input.rst = false → t.value ≠ s.value →
      s.command = some .update ∧ s.unstable = true ∧ t.value = s.raw ∧
      s.params.debounceMs ≤ tickDiff s.params s.now s.tEdge)

/-- The detector does nothing outside an UPDATE but give up what RD_SHORT and RD_LONG read and clear; in particular the
ports `btn_raw` and `tick_ms` have no part in such a cycle (R74, R86, R87). -/
def Obligations.DetectorMovesByUpdateOnly : Prop :=
  ∀ s : State, s.input.rst = false → s.command ≠ some .update →
    ∃ t, step s = .next t ∧ t.value = s.value ∧ t.unstable = s.unstable ∧ t.tEdge = s.tEdge ∧ t.tPress = s.tPress ∧
      t.longFired = s.longFired ∧
      (s.command ≠ some .rdLong → t.longPending = s.longPending) ∧
      (s.command ≠ some .rdShort → t.shortCount = s.shortCount)

/-- A press shorter than the debounce window never registers: from a stable state, in a run without reset in which
every UPDATE but the last cycle's samples the other level less than the window after the first such UPDATE (a tick
`t0`), and the last cycle is an UPDATE that samples the old level again, the stable value never changes; other commands
and idle cycles may come between. This is the spec's sentence of R77, which it derives from R75. -/
def Obligations.ShortPulseNeverRegisters : Prop :=
  ∀ (s : State) (n : Nat) (t0 : Nat), s.unstable = false → s.noReset (n + 1) →
    (∀ k < n, (s.after k).command = some .update →
      (s.after k).raw ≠ s.value ∧ tickDiff s.params (s.after k).now t0 < s.params.debounceMs) →
    (∀ k < n, (s.after k).command = some .update → (∀ j < k, (s.after j).command ≠ some .update) → (s.after k).now = t0) →
    (s.after n).command = some .update → (s.after n).raw = s.value →
    (∀ k ≤ n + 1, (s.after k).value = s.value) ∧ (s.after (n + 1)).unstable = false

/-- The two readings of the debounce filter agree: fed the same samples from the same stable value, the filter of R75
and the one that restarts its timer give the same stable value and the same edge at every UPDATE (R78). R78 describes the
second in words only: its exact form here, `RestartFilter.update`, which keeps the level of the last sample, is the
model's reading (DEDUCED, log 14), so this is no statement about every filter those words could mean. -/
def Obligations.RestartingFilterAgrees : Prop :=
  ∀ (P : Params) (x : Bool) (t0 t1 : Nat) (last : Bool) (samples : List (Bool × Nat)) (raw : Bool) (now : Nat),
    1 ≤ P.debounceMs →
    let f := samples.foldl (fun f r => spikeFilter P f r.1 r.2) ⟨x, false, t0, false⟩
    let g := samples.foldl (fun g r => (g.update P r.1 r.2).1) (⟨x, false, last, t1⟩ : RestartFilter)
    f.value = g.value ∧ (spikeFilter P f raw now).value = (g.update P raw now).1.value ∧
      (spikeFilter P f raw now).edge = (g.update P raw now).2

/-- R79: RD_VALUE, opcode 100, returns the stable level in bit 0 and whether it is the pressed one in bit 1, other bits 0, and
changes nothing but the response port. -/
def Obligations.RdValueReturnsLevel : Prop :=
  (∀ w : CmdWord, decode w = .rdValue ↔ CmdWord.op w = 4#3) ∧
  ∀ s : State, ∃ t, exec .rdValue s = .next t ∧
    t.rspData = s.value.toNat + 2 * (if s.value = s.params.pressedLevel then 1 else 0) ∧
    t = { s with rspValid := true, rspData := t.rspData }

/-! ### UPDATE, the gesture classifier (spec/43_gesture_classifier.md) -/

/-- R82: the gesture stage of an UPDATE, branch by branch: a press edge, a release edge (a long press noticed only now,
a completed short press, or a press whose event has fired), the event on a held press, and nothing otherwise. -/
def Obligations.GestureStageOfUpdate : Prop :=
  ∀ s : State, ∃ t, exec .update s = .next t ∧
    (t.value ≠ s.value → t.value = s.params.pressedLevel →
      t.tPress = s.now ∧ t.longFired = false ∧ t.longPending = s.longPending ∧ t.shortCount = s.shortCount) ∧
    (t.value ≠ s.value → t.value ≠ s.params.pressedLevel →
      t.tPress = s.tPress ∧ t.longFired = false ∧
      (s.longFired = false → s.params.longMs < tickDiff s.params s.now s.tPress →
        t.longPending = true ∧ t.shortCount = s.shortCount) ∧
      (s.longFired = false → tickDiff s.params s.now s.tPress ≤ s.params.longMs →
        t.longPending = s.longPending ∧
        t.shortCount = if s.shortCount < 2 ^ s.params.cntW - 1 then s.shortCount + 1 else s.shortCount) ∧
      (s.longFired = true → t.longPending = s.longPending ∧ t.shortCount = s.shortCount)) ∧
    (t.value = s.value → t.value = s.params.pressedLevel → s.longFired = false →
      s.params.longMs < tickDiff s.params s.now s.tPress →
      t.tPress = s.tPress ∧ t.longFired = true ∧ t.longPending = true ∧ t.shortCount = s.shortCount) ∧
    (t.value = s.value →
      (t.value ≠ s.params.pressedLevel ∨ s.longFired = true ∨ tickDiff s.params s.now s.tPress ≤ s.params.longMs) →
      t.tPress = s.tPress ∧ t.longFired = s.longFired ∧ t.longPending = s.longPending ∧ t.shortCount = s.shortCount)

/-- A long press fires once: from a state just after a press edge (pressed, event not fired), in a run without reset
during which the button stays pressed up to its last cycle, the event fires in at most one cycle, and it fires in one
exactly when some UPDATE of the press, its release edge included, finds it longer than `LONG_MS`; wherever it fires the
event becomes pending, and in no other cycle of the run does an event become pending (R84's sentence on every schedule of UPDATEs, which the spec derives from R82). -/
def Obligations.LongPressFiresOnce : Prop :=
  ∀ (s : State) (n : Nat), s.longFired = false → s.noReset n → (∀ k < n, (s.after k).pressed = true) →
    (∀ j < n, ∀ k < n, (s.after j).fires → (s.after k).fires → j = k) ∧
    ((∃ k < n, (s.after k).fires) ↔ ∃ k < n, (s.after k).findsLong) ∧
    (∀ k < n, (s.after k).fires → (s.after (k + 1)).longPending = true) ∧
    (∀ k < n, ¬(s.after k).fires → (s.after k).longPending = false → (s.after (k + 1)).longPending = false)

/-- Every press is counted as exactly one of short or long: from a state just after a press edge, in a run without reset
and without RD_SHORT that stays pressed up to a last cycle which ends the press, the count goes up by one (saturating)
if the event fired in no cycle of it, and stays if it fired (R83). -/
def Obligations.EveryPressShortOrLong : Prop :=
  ∀ (s : State) (n : Nat), s.pressed = true → s.longFired = false → s.noReset n →
    (∀ k < n, (s.after k).pressed = true) → (∀ k < n, (s.after k).command ≠ some .rdShort) → (s.after n).pressed = false →
    ((∀ k < n, ¬(s.after k).fires) → (s.after n).shortCount = satInc s.params s.shortCount) ∧
    ((∃ k < n, (s.after k).fires) → (s.after n).shortCount = s.shortCount)

/-- R85: an event once pending stays pending through any run without reset and without RD_LONG, over releases and new
presses, while every edge re-arms the latch `long_fired`. -/
def Obligations.UnreadEventSurvives : Prop :=
  (∀ (s : State) (n : Nat), s.longPending = true → s.noReset n → (∀ k < n, (s.after k).command ≠ some .rdLong) →
    (s.after n).longPending = true) ∧
  (∀ s : State, ∃ t, step s = .next t ∧ (s.input.rst = false → t.value ≠ s.value → t.longFired = false))

/-- R86: RD_SHORT, opcode 101, returns the count and clears it in one step, and nothing else changes but the response port; read
again at once it returns 0. -/
def Obligations.RdShortReturnsAndClears : Prop :=
  (∀ w : CmdWord, decode w = .rdShort ↔ CmdWord.op w = 5#3) ∧
  ∀ s : State, ∃ t, exec .rdShort s = .next t ∧
    t = { s with rspValid := true, rspData := s.shortCount, shortCount := 0 } ∧
    ∃ u, exec .rdShort t = .next u ∧ u.rspData = 0

/-- R87: RD_LONG, opcode 110, returns the pending event as 1 or 0 and clears it in one step; `long_fired`, and everything
else but the response port, stays; so read again it returns 0, and while the latch is set an UPDATE does not make the
event pending again. -/
def Obligations.RdLongReturnsAndClears : Prop :=
  (∀ w : CmdWord, decode w = .rdLong ↔ CmdWord.op w = 6#3) ∧
  ∀ s : State, ∃ t, exec .rdLong s = .next t ∧
    t = { s with rspValid := true, rspData := if s.longPending = true then 1 else 0, longPending := false } ∧
    (∃ u, exec .rdLong t = .next u ∧ u.rspData = 0) ∧
    (s.longFired = true → ∃ u, exec .update t = .next u ∧ u.longPending = false)

/-- The short-press count never passes `2^CNT_W - 1` and, once there, stays there under UPDATE (R19). -/
def Obligations.ShortCountSaturates : Prop :=
  ∀ s : State, ∃ t, exec .update s = .next t ∧ (t.shortCount = s.shortCount ∨ t.shortCount = s.shortCount + 1) ∧
    (s.shortCount ≤ 2 ^ s.params.cntW - 1 → t.shortCount ≤ 2 ^ s.params.cntW - 1) ∧
    (s.shortCount = 2 ^ s.params.cntW - 1 → t.shortCount = s.shortCount)

/-! ### STATUS (spec/44_system_ops.md) -/

/-- R90: RD_STATUS, opcode 111, returns the eight flags in their places, other bits 0, from the state its cycle began in, and changes
nothing but the response port. -/
def Obligations.RdStatusReturnsFlags : Prop :=
  (∀ w : CmdWord, decode w = .rdStatus ↔ CmdWord.op w = 7#3) ∧
  ∀ s : State, ∃ t, exec .rdStatus s = .next t ∧
    t.rspData = s.value.toNat + 2 * s.unstable.toNat + 4 * s.busy.toNat + 8 * s.ovr.toNat + 16 * s.ill.toNat +
      32 * s.longFired.toNat + 64 * s.longPending.toNat + 128 * (if s.shortCount = 0 then 0 else 1) ∧
    t = { s with rspValid := true, rspData := t.rspData }

/-- STATUS never reads 0xFF where the pressed level is low, since a long press is active only while pressed
(spec/95_test_vectors.md V-ST10). -/
def Obligations.StatusNeverAllOnes : Prop :=
  ∀ s : State, Inv s → s.params.pressedLevel = false →
    ∃ t, exec .rdStatus s = .next t ∧ t.rspData ≠ 0xFF

/-! ### Reset (spec/70_reset_and_hazards.md, spec/10_state.md) -/

/-- R34 and R120: a cycle with `rst = 1`, whatever the state and the other ports, is followed by the reset state: every
register at its value of R34, the outputs low, nothing responding, the command not executed. -/
def Obligations.ResetSetsEveryRegister : Prop :=
  ∀ s : State, s.input.rst = true →
    ∃ t, step s = .next t ∧
      (∀ p i, t.readBuf p i = 0x00#8) ∧ t.mem = [] ∧ t.shreg = 0#24 ∧ t.sel = 0#1 ∧ t.ph = .idle ∧ t.bitcnt = 0 ∧
      t.cyc = 0 ∧ t.gapcnt = 0 ∧ t.ovr = false ∧ t.ill = false ∧ t.value = !s.params.pressedLevel ∧
      t.unstable = false ∧ t.tEdge = 0 ∧ t.tPress = 0 ∧ t.longFired = false ∧ t.longPending = false ∧
      t.shortCount = 0 ∧ t.rspValid = false ∧ t.rspData = 0 ∧ t.ledPort = 0#2 ∧ t.busy = false ∧ t.params = s.params

/-- The state after reset, with the defaults of R8 (log 2), is idle, released and without a fault; its STATUS is 0x01
(R34, R30). -/
def Obligations.ResetStateOfDefaults : Prop :=
  State.reset.status = 0x01#8 ∧ State.reset.valueWord = 0b01#2 ∧ State.reset.ledPort = 0#2 ∧
  State.reset.busy = false ∧ State.reset.debounceState = .stableHigh ∧ State.reset.safe ∧
  (∀ p i, State.reset.readBuf p i = 0x00#8)

/-! ### The invariant and the whole machine -/

/-- The invariant holds in the reset state of every block with admissible parameters; in `State.reset`, the one of the
block with the default parameters (log 2), too. -/
def Obligations.ResetKeepsInvariant : Prop := (∀ P : Params, P.wf = true → Inv (State.resetOf P)) ∧ Inv State.reset

/-- Every step of every state with the invariant ends in a state with the invariant: the buffer space stays in its
canonical form, the frame position inside the frame, the counters 0 in IDLE, the registers in their widths, and a long
press active only while pressed (R15, R21, R28, R36, R115). -/
def Obligations.StepKeepsInvariant : Prop := ∀ s t : State, Inv s → step s = .next t → Inv t

/-- The parameters are fixed when the block is built: no step changes them (R30). -/
def Obligations.ParametersNeverChange : Prop := ∀ (s : State) (n : Nat), (s.after n).params = s.params

/-! ### Arithmetic (spec/00_scope.md R10) -/

/-- The tick difference is right across a wrap: of two ticks of which one is d after the other, modulo `2^TICK_W`, the
difference is d for every d below `2^TICK_W`; it is the plain difference where none has wrapped. -/
def Obligations.TickDifferenceAcrossWrap : Prop :=
  ∀ (P : Params) (b d : Nat), b < 2 ^ P.tickW → d < 2 ^ P.tickW →
    tickDiff P ((b + d) % 2 ^ P.tickW) b = d ∧
    ∀ a, a < 2 ^ P.tickW → tickDiff P a b = if b ≤ a then a - b else 2 ^ P.tickW - (b - a)

/-! ### Pseudo-commands and the host (spec/30_encoding.md R58, spec/45_host_environment.md) -/

/-- TRANSMIT is `transmit` as a whole: from an idle state whose next four cycles present its listing, the frame in
flight after them is the three bytes in their order, on pin p, the buffer of p holds them, and the other buffer is as it
was (R58, R60). -/
def Obligations.TransmitSendsThreeBytes : Prop :=
  ∀ (s : State) (p : Pin) (b0 b1 b2 : Byte) (raw : Bool) (now : Nat) (rest : List PortIn), Inv s → s.ph = .idle →
    s.inputs = listing raw now (transmit p b0 b1 b2) ++ rest →
    (s.after 4).engine = ⟨b0 ++ b1 ++ b2, p, .bits, 0, 0, 0⟩ ∧
    (s.after 4).readBuf p 0#2 = b0 ∧ (s.after 4).readBuf p 1#2 = b1 ∧ (s.after 4).readBuf p 2#2 = b2 ∧
    (∀ q i, q ≠ p → (s.after 4).readBuf q i = s.readBuf q i) ∧
    (s.after 4).ovr = s.ovr ∧ (s.after 4).ill = s.ill ∧ (s.after 4).inputs = rest

/-- The channel orders: the external LED's frame is G, R, B on its pin, the onboard LED's R, G, B on its own, whichever
pins those are; by default pin 0 and pin 1 (R37, R95, D9, spec/95_test_vectors.md P1, V-F6). -/
def Obligations.ChannelOrders : Prop :=
  (∀ (P : Params) (r g b : Byte),
    setRgbExt P r g b = [Line.of (.wbuf P.pinExt 0#2 g), Line.of (.wbuf P.pinExt 1#2 r), Line.of (.wbuf P.pinExt 2#2 b),
      Line.of (.tx P.pinExt)] ∧
    setRgbOnb P r g b = [Line.of (.wbuf P.pinOnb 0#2 r), Line.of (.wbuf P.pinOnb 1#2 g), Line.of (.wbuf P.pinOnb 2#2 b),
      Line.of (.tx P.pinOnb)]) ∧
  Config.defaultParams.pinExt = 0#1 ∧ Config.defaultParams.pinOnb = 1#1

/-- The reset pulse of the host: polled at ticks after a trigger it ends at the first poll more than 2000 ms after the
last trigger and not before, and a second trigger restarts the window (R100). -/
def Obligations.ResetPulseRestarts : Prop :=
  ∀ (P : Params) (h : HostData) (t0 t1 d : Nat), d < 2 ^ P.tickW → t1 < 2 ^ P.tickW →
    let now := (t1 + d) % 2 ^ P.tickW
    let pulsing := (h.triggerReset t0).triggerReset t1
    pulsing.resetOut = false ∧
    (d ≤ 2000 → pulsing.pollReset P now = (pulsing, false)) ∧
    (2000 < d → (pulsing.pollReset P now).2 = true ∧ (pulsing.pollReset P now).1.resetOut = true ∧
      (pulsing.pollReset P now).1.resetTimer = none)

/-- A serial line of three comma-separated decimal integers, each with or without a minus sign, is accepted, the buffer
cleared, and each byte of the colour is the integer where that lies in 0 to 255, 0 below and 255 above (R101,
spec/95_test_vectors.md S3). The digits are given as numbers below 10, most significant first. That an integer is spelled
so is the model's reading (log 15). -/
def Obligations.SerialTripleIsClamped : Prop :=
  ∀ (h : HostData) (m0 m1 m2 : Bool) (d0 d1 d2 : List Nat) (term : Byte),
    h.lineBuf = [] → (term = 10#8 ∨ term = 13#8) →
    (∀ d ∈ [d0, d1, d2], d ≠ [] ∧ ∀ x ∈ d, x < 10) →
    let text (m : Bool) (d : List Nat) : List Byte := (if m then [45#8] else []) ++ d.map (fun x => BitVec.ofNat 8 (48 + x))
    let int (m : Bool) (d : List Nat) : Int := (if m then -1 else 1) * (Nat.ofDigits 10 d.reverse : Int)
    let clamped (c : Byte) (z : Int) : Prop :=
      (z < 0 → c = 0#8) ∧ (255 < z → c = 255#8) ∧ (0 ≤ z → z ≤ 255 → (c.toNat : Int) = z)
    ∃ c, h.receive (text m0 d0 ++ [44#8] ++ text m1 d1 ++ [44#8] ++ text m2 d2 ++ [term]) = (h, [.ok c]) ∧
      clamped c.r (int m0 d0) ∧ clamped c.g (int m1 d1) ∧ clamped c.b (int m2 d2)

/-- A serial line that is no colour changes nothing but the buffer, which is cleared: without a comma it is discarded
with no report; with a comma and other than three fields it is reported as a failure, and so it is with three fields of
which one has no decimal digit, or holds a byte that is no sign, no blank and no character of a digit or a base, or
begins as an octal or binary number and holds a digit above 7 or above 1 (R101, R102, spec/95_test_vectors.md S4, S5).
Which bytes those are, how a base is written, and that an empty line has no comma, is the model's reading (log 15). -/
def Obligations.BadLineIsDiscarded : Prop :=
  ∀ (h : HostData) (line : List Byte) (term : Byte),
    (∀ c ∈ h.lineBuf ++ line, c ≠ 10#8 ∧ c ≠ 13#8) → (term = 10#8 ∨ term = 13#8) →
    let text := h.lineBuf ++ line
    let fails : Prop := ∃ e, h.receive (line ++ [term]) = ({ h with lineBuf := [] }, [.parseFailure e]) ∧
      acceptedColour [.parseFailure e] = none ∧ failureReports [.parseFailure e] = [e]
    (44#8 ∉ text → h.receive (line ++ [term]) = ({ h with lineBuf := [] }, [.discardedNoComma]) ∧
      acceptedColour [.discardedNoComma] = none ∧ failureReports [.discardedNoComma] = []) ∧
    (44#8 ∈ text → text.count 44#8 ≠ 2 → fails) ∧
    (∀ f0 f1 f2 : List Byte, text = f0 ++ [44#8] ++ f1 ++ [44#8] ++ f2 →
      (∃ f ∈ [f0, f1, f2], (∀ c ∈ f, isDigit c = false) ∨
        ∃ c ∈ f, isHexDigit c = false ∧ isBaseLetter c = false ∧ isBlank c = false ∧ c ≠ 43#8 ∧ c ≠ 45#8 ∧ c ≠ 44#8) →
      fails) ∧
    (∀ f0 f1 f2 : List Byte, text = f0 ++ [44#8] ++ f1 ++ [44#8] ++ f2 →
      (∃ f ∈ [f0, f1, f2], ∃ b ds d, f = 48#8 :: b :: ds ∧ d ∈ ds ∧ isBlank d = false ∧
        (((b = 111#8 ∨ b = 79#8) ∧ 55 < d.toNat) ∨ ((b = 98#8 ∨ b = 66#8) ∧ 49 < d.toNat))) →
      fails)

/-- The source's host never overruns the block: from any state of the invariant that is idle and without a fault, after
any number of iterations of its loop, on whatever it sees, the block is idle and without a fault again; so it never
presents a TX while busy, nor the reserved form (R98, its last sentence). -/
def Obligations.HostLoopNeverOverruns : Prop :=
  ∀ (k : HostChoices) (w : HostSystem) (seen : Nat → HostSeen) (n : Nat),
    Inv w.block → w.block.ph = .idle → w.block.safe →
    (w.loop k seen n).block.ph = .idle ∧ (w.loop k seen n).block.safe ∧ Inv (w.loop k seen n).block

/-- What an ordinary iteration leaves in the external LED's buffer, with the two LEDs on different pins: green, red, blue
of red (255, 0, 0) while the stable button is pressed, and of the current PersistentColor, a colour accepted in this
iteration included, while it is released. Ordinary: RD_LONG finds no event (R80, R98, R101, spec/95_test_vectors.md S7). -/
def Obligations.IterationShowsColour : Prop :=
  ∀ (k : HostChoices) (w : HostSystem) (e : HostSeen), Inv w.block → w.block.ph = .idle →
    w.block.params.pinExt ≠ w.block.params.pinOnb → ((w.sample e).block.longPending = false) →
    let u := w.iteration k e
    let c := if u.block.pressed = true then ⟨255#8, 0#8, 0#8⟩ else u.host.persistent
    u.block.readBuf u.block.params.pinExt 0#2 = c.g ∧ u.block.readBuf u.block.params.pinExt 1#2 = c.r ∧
    u.block.readBuf u.block.params.pinExt 2#2 = c.b

/-- What an iteration with a long-press event leaves, with the two LEDs on different pins and no serial colour accepted in
it: the event read, PersistentColor black, the reset output low with its pulse started at this iteration's tick, the
external LED's buffer black and the onboard LED's at the resetting colour (R99, R100). -/
def Obligations.LongPressIteration : Prop :=
  ∀ (k : HostChoices) (w : HostSystem) (e : HostSeen), Inv w.block → w.block.ph = .idle →
    w.block.params.pinExt ≠ w.block.params.pinOnb → (w.sample e).block.longPending = true →
    acceptedColour (w.host.receive e.bytes).2 = none →
    let u := w.iteration k e
    u.block.longPending = false ∧ u.host.persistent = ⟨0#8, 0#8, 0#8⟩ ∧ u.host.resetOut = false ∧
    u.host.resetTimer = some e.now ∧
    (∀ i, i ≠ 3#2 → u.block.readBuf u.block.params.pinExt i = 0x00#8) ∧
    u.block.readBuf u.block.params.pinOnb 0#2 = k.resetting.r ∧
    u.block.readBuf u.block.params.pinOnb 1#2 = k.resetting.g ∧
    u.block.readBuf u.block.params.pinOnb 2#2 = k.resetting.b
end

