-- ==== Sys2Proof/Laws/Arith.lean ====
section
/-! SUPPORT. The tick difference and the saturating increment stay in their widths. -/

namespace Sys2Proof.Machine

/-- The difference as a congruence: what it is, before the narrowing. -/
theorem tickDiff_eq (P : Params) (a b : Nat) :
    (tickDiff P a b : Int) = ((a : Int) - (b : Int)) % ((2 ^ P.tickW : Nat) : Int) := by
  have : (0 : Int) < ((2 ^ P.tickW : Nat) : Int) := by exact_mod_cast Nat.two_pow_pos P.tickW
  exact Int.toNat_of_nonneg (Int.emod_nonneg _ this.ne')

theorem tickDiff_lt (P : Params) (a b : Nat) : tickDiff P a b < 2 ^ P.tickW := by
  have h : (0 : Int) < ((2 ^ P.tickW : Nat) : Int) := by exact_mod_cast Nat.two_pow_pos P.tickW
  have := Int.emod_lt_of_pos ((a : Int) - (b : Int)) h
  rw [← tickDiff_eq] at this
  exact_mod_cast this

/-- No time has passed between a tick and itself: the first differing sample is never accepted (R75 corner (a)). -/
@[simp] theorem tickDiff_self (P : Params) (a : Nat) : tickDiff P a a = 0 := by
  simp [tickDiff]

theorem satInc_lt {P : Params} {v : Nat} (h : v < 2 ^ P.cntW) : satInc P v < 2 ^ P.cntW := by
  unfold satInc
  split <;> omega

end Sys2Proof.Machine
end

