-- ==== Sys2Proof/Laws/Decode.lean ====
section
/-! SUPPORT. The bits and the fields of a packed word. -/

namespace Sys2Proof

/-- The bits of a packed word: the pattern `vvvvvvvviipooo` (R50). -/
theorem pack_getLsbD (v : Byte) (i : ByteIdx) (p : Pin) (op : BitVec 3) (k : Nat) :
    (pack v i p op).getLsbD k =
      if k < 3 then op.getLsbD k else if k < 4 then p.getLsbD (k - 3)
      else if k < 6 then i.getLsbD (k - 4) else v.getLsbD (k - 6) := by
  change BitVec.getLsbD (w := 8 + 2 + 1 + 3) (v ++ i ++ p ++ op) k = _
  rw [BitVec.getLsbD_append, BitVec.getLsbD_append, BitVec.getLsbD_append]
  have h4 : k - 3 < 1 ↔ k < 4 := by omega
  have h6 : k - 4 < 2 ↔ k < 6 := by omega
  simp only [h4, Nat.sub_sub, Nat.reduceAdd, h6]

/-- Each field of a packed word is the field that was packed (R50). -/
theorem pack_fields (v : Byte) (i : ByteIdx) (p : Pin) (op : BitVec 3) :
    CmdWord.op (pack v i p op) = op ∧ CmdWord.p (pack v i p op) = p ∧ CmdWord.i (pack v i p op) = i ∧
      CmdWord.v (pack v i p op) = v := by
  refine ⟨?_, ?_, ?_, ?_⟩ <;>
    simp only [CmdWord.op, CmdWord.p, CmdWord.i, CmdWord.v] <;> ext k hk <;>
    rw [BitVec.getElem_extractLsb', pack_getLsbD]
  · simp [hk]
  · have : k = 0 := by omega
    simp [this]
  · have h1 : ¬4 + k < 4 := by omega
    have h2 : 4 + k < 6 := by omega
    have h3 : ¬4 + k < 3 := by omega
    simp [h1, h2, h3, BitVec.getLsbD_eq_getElem hk]
  · have h1 : ¬6 + k < 4 := by omega
    have h2 : ¬6 + k < 6 := by omega
    have h3 : ¬6 + k < 3 := by omega
    simp [h1, h2, h3, BitVec.getLsbD_eq_getElem hk]

end Sys2Proof
end

