-- ==== Sys2Proof/Laws/State.lean ====
section
/-! SUPPORT. The fields of a state after each named update, one lemma per field, so that no proof unfolds a
record update; and what the observers of a state see after the response port is cleared. -/

namespace Sys2Proof.Machine

/-! ### `State.quiet` -/

@[simp] theorem State.quiet_params (s : State) : s.quiet.params = s.params := rfl
@[simp] theorem State.quiet_mem (s : State) : s.quiet.mem = s.mem := rfl
@[simp] theorem State.quiet_shreg (s : State) : s.quiet.shreg = s.shreg := rfl
@[simp] theorem State.quiet_sel (s : State) : s.quiet.sel = s.sel := rfl
@[simp] theorem State.quiet_ph (s : State) : s.quiet.ph = s.ph := rfl
@[simp] theorem State.quiet_bitcnt (s : State) : s.quiet.bitcnt = s.bitcnt := rfl
@[simp] theorem State.quiet_cyc (s : State) : s.quiet.cyc = s.cyc := rfl
@[simp] theorem State.quiet_gapcnt (s : State) : s.quiet.gapcnt = s.gapcnt := rfl
@[simp] theorem State.quiet_ovr (s : State) : s.quiet.ovr = s.ovr := rfl
@[simp] theorem State.quiet_ill (s : State) : s.quiet.ill = s.ill := rfl
@[simp] theorem State.quiet_value (s : State) : s.quiet.value = s.value := rfl
@[simp] theorem State.quiet_unstable (s : State) : s.quiet.unstable = s.unstable := rfl
@[simp] theorem State.quiet_tEdge (s : State) : s.quiet.tEdge = s.tEdge := rfl
@[simp] theorem State.quiet_tPress (s : State) : s.quiet.tPress = s.tPress := rfl
@[simp] theorem State.quiet_longFired (s : State) : s.quiet.longFired = s.longFired := rfl
@[simp] theorem State.quiet_longPending (s : State) : s.quiet.longPending = s.longPending := rfl
@[simp] theorem State.quiet_shortCount (s : State) : s.quiet.shortCount = s.shortCount := rfl
@[simp] theorem State.quiet_rspValid (s : State) : s.quiet.rspValid = false := rfl
@[simp] theorem State.quiet_rspData (s : State) : s.quiet.rspData = 0 := rfl
@[simp] theorem State.quiet_inputs (s : State) : s.quiet.inputs = s.inputs := rfl
@[simp] theorem State.quiet_cycleNo (s : State) : s.quiet.cycleNo = s.cycleNo := rfl

/-! ### `State.respond` -/

@[simp] theorem State.respond_params (s : State) (v : Nat) : (s.respond v).params = s.params := rfl
@[simp] theorem State.respond_mem (s : State) (v : Nat) : (s.respond v).mem = s.mem := rfl
@[simp] theorem State.respond_shreg (s : State) (v : Nat) : (s.respond v).shreg = s.shreg := rfl
@[simp] theorem State.respond_sel (s : State) (v : Nat) : (s.respond v).sel = s.sel := rfl
@[simp] theorem State.respond_ph (s : State) (v : Nat) : (s.respond v).ph = s.ph := rfl
@[simp] theorem State.respond_bitcnt (s : State) (v : Nat) : (s.respond v).bitcnt = s.bitcnt := rfl
@[simp] theorem State.respond_cyc (s : State) (v : Nat) : (s.respond v).cyc = s.cyc := rfl
@[simp] theorem State.respond_gapcnt (s : State) (v : Nat) : (s.respond v).gapcnt = s.gapcnt := rfl
@[simp] theorem State.respond_ovr (s : State) (v : Nat) : (s.respond v).ovr = s.ovr := rfl
@[simp] theorem State.respond_ill (s : State) (v : Nat) : (s.respond v).ill = s.ill := rfl
@[simp] theorem State.respond_value (s : State) (v : Nat) : (s.respond v).value = s.value := rfl
@[simp] theorem State.respond_unstable (s : State) (v : Nat) : (s.respond v).unstable = s.unstable := rfl
@[simp] theorem State.respond_tEdge (s : State) (v : Nat) : (s.respond v).tEdge = s.tEdge := rfl
@[simp] theorem State.respond_tPress (s : State) (v : Nat) : (s.respond v).tPress = s.tPress := rfl
@[simp] theorem State.respond_longFired (s : State) (v : Nat) : (s.respond v).longFired = s.longFired := rfl
@[simp] theorem State.respond_longPending (s : State) (v : Nat) : (s.respond v).longPending = s.longPending := rfl
@[simp] theorem State.respond_shortCount (s : State) (v : Nat) : (s.respond v).shortCount = s.shortCount := rfl
@[simp] theorem State.respond_rspValid (s : State) (v : Nat) : (s.respond v).rspValid = true := rfl
@[simp] theorem State.respond_rspData (s : State) (v : Nat) : (s.respond v).rspData = v := rfl
@[simp] theorem State.respond_inputs (s : State) (v : Nat) : (s.respond v).inputs = s.inputs := rfl
@[simp] theorem State.respond_cycleNo (s : State) (v : Nat) : (s.respond v).cycleNo = s.cycleNo := rfl

/-! ### `State.writeBuf` -/

@[simp] theorem State.writeBuf_params (s : State) (p : Pin) (i : ByteIdx) (v : Byte) : (s.writeBuf p i v).params = s.params := rfl
@[simp] theorem State.writeBuf_mem (s : State) (p : Pin) (i : ByteIdx) (v : Byte) : (s.writeBuf p i v).mem = s.mem.write (bufAddr p i) v := rfl
@[simp] theorem State.writeBuf_shreg (s : State) (p : Pin) (i : ByteIdx) (v : Byte) : (s.writeBuf p i v).shreg = s.shreg := rfl
@[simp] theorem State.writeBuf_sel (s : State) (p : Pin) (i : ByteIdx) (v : Byte) : (s.writeBuf p i v).sel = s.sel := rfl
@[simp] theorem State.writeBuf_ph (s : State) (p : Pin) (i : ByteIdx) (v : Byte) : (s.writeBuf p i v).ph = s.ph := rfl
@[simp] theorem State.writeBuf_bitcnt (s : State) (p : Pin) (i : ByteIdx) (v : Byte) : (s.writeBuf p i v).bitcnt = s.bitcnt := rfl
@[simp] theorem State.writeBuf_cyc (s : State) (p : Pin) (i : ByteIdx) (v : Byte) : (s.writeBuf p i v).cyc = s.cyc := rfl
@[simp] theorem State.writeBuf_gapcnt (s : State) (p : Pin) (i : ByteIdx) (v : Byte) : (s.writeBuf p i v).gapcnt = s.gapcnt := rfl
@[simp] theorem State.writeBuf_ovr (s : State) (p : Pin) (i : ByteIdx) (v : Byte) : (s.writeBuf p i v).ovr = s.ovr := rfl
@[simp] theorem State.writeBuf_ill (s : State) (p : Pin) (i : ByteIdx) (v : Byte) : (s.writeBuf p i v).ill = s.ill := rfl
@[simp] theorem State.writeBuf_value (s : State) (p : Pin) (i : ByteIdx) (v : Byte) : (s.writeBuf p i v).value = s.value := rfl
@[simp] theorem State.writeBuf_unstable (s : State) (p : Pin) (i : ByteIdx) (v : Byte) : (s.writeBuf p i v).unstable = s.unstable := rfl
@[simp] theorem State.writeBuf_tEdge (s : State) (p : Pin) (i : ByteIdx) (v : Byte) : (s.writeBuf p i v).tEdge = s.tEdge := rfl
@[simp] theorem State.writeBuf_tPress (s : State) (p : Pin) (i : ByteIdx) (v : Byte) : (s.writeBuf p i v).tPress = s.tPress := rfl
@[simp] theorem State.writeBuf_longFired (s : State) (p : Pin) (i : ByteIdx) (v : Byte) : (s.writeBuf p i v).longFired = s.longFired := rfl
@[simp] theorem State.writeBuf_longPending (s : State) (p : Pin) (i : ByteIdx) (v : Byte) : (s.writeBuf p i v).longPending = s.longPending := rfl
@[simp] theorem State.writeBuf_shortCount (s : State) (p : Pin) (i : ByteIdx) (v : Byte) : (s.writeBuf p i v).shortCount = s.shortCount := rfl
@[simp] theorem State.writeBuf_rspValid (s : State) (p : Pin) (i : ByteIdx) (v : Byte) : (s.writeBuf p i v).rspValid = s.rspValid := rfl
@[simp] theorem State.writeBuf_rspData (s : State) (p : Pin) (i : ByteIdx) (v : Byte) : (s.writeBuf p i v).rspData = s.rspData := rfl
@[simp] theorem State.writeBuf_inputs (s : State) (p : Pin) (i : ByteIdx) (v : Byte) : (s.writeBuf p i v).inputs = s.inputs := rfl
@[simp] theorem State.writeBuf_cycleNo (s : State) (p : Pin) (i : ByteIdx) (v : Byte) : (s.writeBuf p i v).cycleNo = s.cycleNo := rfl

/-! ### `State.present` -/

@[simp] theorem State.present_params (s : State) (x : PortIn) : (s.present x).params = s.params := rfl
@[simp] theorem State.present_mem (s : State) (x : PortIn) : (s.present x).mem = s.mem := rfl
@[simp] theorem State.present_shreg (s : State) (x : PortIn) : (s.present x).shreg = s.shreg := rfl
@[simp] theorem State.present_sel (s : State) (x : PortIn) : (s.present x).sel = s.sel := rfl
@[simp] theorem State.present_ph (s : State) (x : PortIn) : (s.present x).ph = s.ph := rfl
@[simp] theorem State.present_bitcnt (s : State) (x : PortIn) : (s.present x).bitcnt = s.bitcnt := rfl
@[simp] theorem State.present_cyc (s : State) (x : PortIn) : (s.present x).cyc = s.cyc := rfl
@[simp] theorem State.present_gapcnt (s : State) (x : PortIn) : (s.present x).gapcnt = s.gapcnt := rfl
@[simp] theorem State.present_ovr (s : State) (x : PortIn) : (s.present x).ovr = s.ovr := rfl
@[simp] theorem State.present_ill (s : State) (x : PortIn) : (s.present x).ill = s.ill := rfl
@[simp] theorem State.present_value (s : State) (x : PortIn) : (s.present x).value = s.value := rfl
@[simp] theorem State.present_unstable (s : State) (x : PortIn) : (s.present x).unstable = s.unstable := rfl
@[simp] theorem State.present_tEdge (s : State) (x : PortIn) : (s.present x).tEdge = s.tEdge := rfl
@[simp] theorem State.present_tPress (s : State) (x : PortIn) : (s.present x).tPress = s.tPress := rfl
@[simp] theorem State.present_longFired (s : State) (x : PortIn) : (s.present x).longFired = s.longFired := rfl
@[simp] theorem State.present_longPending (s : State) (x : PortIn) : (s.present x).longPending = s.longPending := rfl
@[simp] theorem State.present_shortCount (s : State) (x : PortIn) : (s.present x).shortCount = s.shortCount := rfl
@[simp] theorem State.present_rspValid (s : State) (x : PortIn) : (s.present x).rspValid = s.rspValid := rfl
@[simp] theorem State.present_rspData (s : State) (x : PortIn) : (s.present x).rspData = s.rspData := rfl
@[simp] theorem State.present_inputs (s : State) (x : PortIn) : (s.present x).inputs = x :: s.inputs.tail := rfl
@[simp] theorem State.present_cycleNo (s : State) (x : PortIn) : (s.present x).cycleNo = s.cycleNo := rfl

/-! ### `State.nextCycle` -/

@[simp] theorem State.nextCycle_params (s : State) : s.nextCycle.params = s.params := rfl
@[simp] theorem State.nextCycle_mem (s : State) : s.nextCycle.mem = s.mem := rfl
@[simp] theorem State.nextCycle_shreg (s : State) : s.nextCycle.shreg = s.shreg := rfl
@[simp] theorem State.nextCycle_sel (s : State) : s.nextCycle.sel = s.sel := rfl
@[simp] theorem State.nextCycle_ph (s : State) : s.nextCycle.ph = s.ph := rfl
@[simp] theorem State.nextCycle_bitcnt (s : State) : s.nextCycle.bitcnt = s.bitcnt := rfl
@[simp] theorem State.nextCycle_cyc (s : State) : s.nextCycle.cyc = s.cyc := rfl
@[simp] theorem State.nextCycle_gapcnt (s : State) : s.nextCycle.gapcnt = s.gapcnt := rfl
@[simp] theorem State.nextCycle_ovr (s : State) : s.nextCycle.ovr = s.ovr := rfl
@[simp] theorem State.nextCycle_ill (s : State) : s.nextCycle.ill = s.ill := rfl
@[simp] theorem State.nextCycle_value (s : State) : s.nextCycle.value = s.value := rfl
@[simp] theorem State.nextCycle_unstable (s : State) : s.nextCycle.unstable = s.unstable := rfl
@[simp] theorem State.nextCycle_tEdge (s : State) : s.nextCycle.tEdge = s.tEdge := rfl
@[simp] theorem State.nextCycle_tPress (s : State) : s.nextCycle.tPress = s.tPress := rfl
@[simp] theorem State.nextCycle_longFired (s : State) : s.nextCycle.longFired = s.longFired := rfl
@[simp] theorem State.nextCycle_longPending (s : State) : s.nextCycle.longPending = s.longPending := rfl
@[simp] theorem State.nextCycle_shortCount (s : State) : s.nextCycle.shortCount = s.shortCount := rfl
@[simp] theorem State.nextCycle_rspValid (s : State) : s.nextCycle.rspValid = s.rspValid := rfl
@[simp] theorem State.nextCycle_rspData (s : State) : s.nextCycle.rspData = s.rspData := rfl
@[simp] theorem State.nextCycle_inputs (s : State) : s.nextCycle.inputs = s.inputs.tail := rfl
@[simp] theorem State.nextCycle_cycleNo (s : State) : s.nextCycle.cycleNo = s.cycleNo + 1 := rfl

/-! ### `State.startFrame` -/

@[simp] theorem State.startFrame_params (s : State) (p : Pin) : (s.startFrame p).params = s.params := rfl
@[simp] theorem State.startFrame_mem (s : State) (p : Pin) : (s.startFrame p).mem = s.mem := rfl
@[simp] theorem State.startFrame_shreg (s : State) (p : Pin) : (s.startFrame p).shreg = s.readFrame p := rfl
@[simp] theorem State.startFrame_sel (s : State) (p : Pin) : (s.startFrame p).sel = p := rfl
@[simp] theorem State.startFrame_ph (s : State) (p : Pin) : (s.startFrame p).ph = .bits := rfl
@[simp] theorem State.startFrame_bitcnt (s : State) (p : Pin) : (s.startFrame p).bitcnt = 0 := rfl
@[simp] theorem State.startFrame_cyc (s : State) (p : Pin) : (s.startFrame p).cyc = 0 := rfl
@[simp] theorem State.startFrame_gapcnt (s : State) (p : Pin) : (s.startFrame p).gapcnt = s.gapcnt := rfl
@[simp] theorem State.startFrame_ovr (s : State) (p : Pin) : (s.startFrame p).ovr = s.ovr := rfl
@[simp] theorem State.startFrame_ill (s : State) (p : Pin) : (s.startFrame p).ill = s.ill := rfl
@[simp] theorem State.startFrame_value (s : State) (p : Pin) : (s.startFrame p).value = s.value := rfl
@[simp] theorem State.startFrame_unstable (s : State) (p : Pin) : (s.startFrame p).unstable = s.unstable := rfl
@[simp] theorem State.startFrame_tEdge (s : State) (p : Pin) : (s.startFrame p).tEdge = s.tEdge := rfl
@[simp] theorem State.startFrame_tPress (s : State) (p : Pin) : (s.startFrame p).tPress = s.tPress := rfl
@[simp] theorem State.startFrame_longFired (s : State) (p : Pin) : (s.startFrame p).longFired = s.longFired := rfl
@[simp] theorem State.startFrame_longPending (s : State) (p : Pin) : (s.startFrame p).longPending = s.longPending := rfl
@[simp] theorem State.startFrame_shortCount (s : State) (p : Pin) : (s.startFrame p).shortCount = s.shortCount := rfl
@[simp] theorem State.startFrame_rspValid (s : State) (p : Pin) : (s.startFrame p).rspValid = s.rspValid := rfl
@[simp] theorem State.startFrame_rspData (s : State) (p : Pin) : (s.startFrame p).rspData = s.rspData := rfl
@[simp] theorem State.startFrame_inputs (s : State) (p : Pin) : (s.startFrame p).inputs = s.inputs := rfl
@[simp] theorem State.startFrame_cycleNo (s : State) (p : Pin) : (s.startFrame p).cycleNo = s.cycleNo := rfl

/-! ### `State.setDetector` -/

@[simp] theorem State.setDetector_params (s : State) (d : DebounceResult) (g : GestureResult) : (s.setDetector d g).params = s.params := rfl
@[simp] theorem State.setDetector_mem (s : State) (d : DebounceResult) (g : GestureResult) : (s.setDetector d g).mem = s.mem := rfl
@[simp] theorem State.setDetector_shreg (s : State) (d : DebounceResult) (g : GestureResult) : (s.setDetector d g).shreg = s.shreg := rfl
@[simp] theorem State.setDetector_sel (s : State) (d : DebounceResult) (g : GestureResult) : (s.setDetector d g).sel = s.sel := rfl
@[simp] theorem State.setDetector_ph (s : State) (d : DebounceResult) (g : GestureResult) : (s.setDetector d g).ph = s.ph := rfl
@[simp] theorem State.setDetector_bitcnt (s : State) (d : DebounceResult) (g : GestureResult) : (s.setDetector d g).bitcnt = s.bitcnt := rfl
@[simp] theorem State.setDetector_cyc (s : State) (d : DebounceResult) (g : GestureResult) : (s.setDetector d g).cyc = s.cyc := rfl
@[simp] theorem State.setDetector_gapcnt (s : State) (d : DebounceResult) (g : GestureResult) : (s.setDetector d g).gapcnt = s.gapcnt := rfl
@[simp] theorem State.setDetector_ovr (s : State) (d : DebounceResult) (g : GestureResult) : (s.setDetector d g).ovr = s.ovr := rfl
@[simp] theorem State.setDetector_ill (s : State) (d : DebounceResult) (g : GestureResult) : (s.setDetector d g).ill = s.ill := rfl
@[simp] theorem State.setDetector_value (s : State) (d : DebounceResult) (g : GestureResult) : (s.setDetector d g).value = d.value := rfl
@[simp] theorem State.setDetector_unstable (s : State) (d : DebounceResult) (g : GestureResult) : (s.setDetector d g).unstable = d.unstable := rfl
@[simp] theorem State.setDetector_tEdge (s : State) (d : DebounceResult) (g : GestureResult) : (s.setDetector d g).tEdge = d.tEdge := rfl
@[simp] theorem State.setDetector_tPress (s : State) (d : DebounceResult) (g : GestureResult) : (s.setDetector d g).tPress = g.tPress := rfl
@[simp] theorem State.setDetector_longFired (s : State) (d : DebounceResult) (g : GestureResult) : (s.setDetector d g).longFired = g.longFired := rfl
@[simp] theorem State.setDetector_longPending (s : State) (d : DebounceResult) (g : GestureResult) : (s.setDetector d g).longPending = g.longPending := rfl
@[simp] theorem State.setDetector_shortCount (s : State) (d : DebounceResult) (g : GestureResult) : (s.setDetector d g).shortCount = g.shortCount := rfl
@[simp] theorem State.setDetector_rspValid (s : State) (d : DebounceResult) (g : GestureResult) : (s.setDetector d g).rspValid = s.rspValid := rfl
@[simp] theorem State.setDetector_rspData (s : State) (d : DebounceResult) (g : GestureResult) : (s.setDetector d g).rspData = s.rspData := rfl
@[simp] theorem State.setDetector_inputs (s : State) (d : DebounceResult) (g : GestureResult) : (s.setDetector d g).inputs = s.inputs := rfl
@[simp] theorem State.setDetector_cycleNo (s : State) (d : DebounceResult) (g : GestureResult) : (s.setDetector d g).cycleNo = s.cycleNo := rfl

/-! ### `State.resetRegs` -/

@[simp] theorem State.resetRegs_params (s : State) : s.resetRegs.params = s.params := rfl
@[simp] theorem State.resetRegs_mem (s : State) : s.resetRegs.mem = [] := rfl
@[simp] theorem State.resetRegs_shreg (s : State) : s.resetRegs.shreg = 0#24 := rfl
@[simp] theorem State.resetRegs_sel (s : State) : s.resetRegs.sel = 0#1 := rfl
@[simp] theorem State.resetRegs_ph (s : State) : s.resetRegs.ph = .idle := rfl
@[simp] theorem State.resetRegs_bitcnt (s : State) : s.resetRegs.bitcnt = 0 := rfl
@[simp] theorem State.resetRegs_cyc (s : State) : s.resetRegs.cyc = 0 := rfl
@[simp] theorem State.resetRegs_gapcnt (s : State) : s.resetRegs.gapcnt = 0 := rfl
@[simp] theorem State.resetRegs_ovr (s : State) : s.resetRegs.ovr = false := rfl
@[simp] theorem State.resetRegs_ill (s : State) : s.resetRegs.ill = false := rfl
@[simp] theorem State.resetRegs_value (s : State) : s.resetRegs.value = !s.params.pressedLevel := rfl
@[simp] theorem State.resetRegs_unstable (s : State) : s.resetRegs.unstable = false := rfl
@[simp] theorem State.resetRegs_tEdge (s : State) : s.resetRegs.tEdge = 0 := rfl
@[simp] theorem State.resetRegs_tPress (s : State) : s.resetRegs.tPress = 0 := rfl
@[simp] theorem State.resetRegs_longFired (s : State) : s.resetRegs.longFired = false := rfl
@[simp] theorem State.resetRegs_longPending (s : State) : s.resetRegs.longPending = false := rfl
@[simp] theorem State.resetRegs_shortCount (s : State) : s.resetRegs.shortCount = 0 := rfl
@[simp] theorem State.resetRegs_rspValid (s : State) : s.resetRegs.rspValid = false := rfl
@[simp] theorem State.resetRegs_rspData (s : State) : s.resetRegs.rspData = 0 := rfl
@[simp] theorem State.resetRegs_inputs (s : State) : s.resetRegs.inputs = s.inputs := rfl
@[simp] theorem State.resetRegs_cycleNo (s : State) : s.resetRegs.cycleNo = s.cycleNo := rfl

/-! ### `State.raise` -/

@[simp] theorem State.raise_params (s : State) (k : StickyFault) : (s.raise k).params = s.params := by cases k <;> rfl
@[simp] theorem State.raise_mem (s : State) (k : StickyFault) : (s.raise k).mem = s.mem := by cases k <;> rfl
@[simp] theorem State.raise_shreg (s : State) (k : StickyFault) : (s.raise k).shreg = s.shreg := by cases k <;> rfl
@[simp] theorem State.raise_sel (s : State) (k : StickyFault) : (s.raise k).sel = s.sel := by cases k <;> rfl
@[simp] theorem State.raise_ph (s : State) (k : StickyFault) : (s.raise k).ph = s.ph := by cases k <;> rfl
@[simp] theorem State.raise_bitcnt (s : State) (k : StickyFault) : (s.raise k).bitcnt = s.bitcnt := by cases k <;> rfl
@[simp] theorem State.raise_cyc (s : State) (k : StickyFault) : (s.raise k).cyc = s.cyc := by cases k <;> rfl
@[simp] theorem State.raise_gapcnt (s : State) (k : StickyFault) : (s.raise k).gapcnt = s.gapcnt := by cases k <;> rfl
@[simp] theorem State.raise_overrun_ovr (s : State) : (s.raise .overrun).ovr = true := rfl
@[simp] theorem State.raise_illegal_ovr (s : State) : (s.raise .illegalCommand).ovr = s.ovr := rfl
@[simp] theorem State.raise_overrun_ill (s : State) : (s.raise .overrun).ill = s.ill := rfl
@[simp] theorem State.raise_illegal_ill (s : State) : (s.raise .illegalCommand).ill = true := rfl
@[simp] theorem State.raise_value (s : State) (k : StickyFault) : (s.raise k).value = s.value := by cases k <;> rfl
@[simp] theorem State.raise_unstable (s : State) (k : StickyFault) : (s.raise k).unstable = s.unstable := by cases k <;> rfl
@[simp] theorem State.raise_tEdge (s : State) (k : StickyFault) : (s.raise k).tEdge = s.tEdge := by cases k <;> rfl
@[simp] theorem State.raise_tPress (s : State) (k : StickyFault) : (s.raise k).tPress = s.tPress := by cases k <;> rfl
@[simp] theorem State.raise_longFired (s : State) (k : StickyFault) : (s.raise k).longFired = s.longFired := by cases k <;> rfl
@[simp] theorem State.raise_longPending (s : State) (k : StickyFault) : (s.raise k).longPending = s.longPending := by cases k <;> rfl
@[simp] theorem State.raise_shortCount (s : State) (k : StickyFault) : (s.raise k).shortCount = s.shortCount := by cases k <;> rfl
@[simp] theorem State.raise_rspValid (s : State) (k : StickyFault) : (s.raise k).rspValid = s.rspValid := by cases k <;> rfl
@[simp] theorem State.raise_rspData (s : State) (k : StickyFault) : (s.raise k).rspData = s.rspData := by cases k <;> rfl
@[simp] theorem State.raise_inputs (s : State) (k : StickyFault) : (s.raise k).inputs = s.inputs := by cases k <;> rfl
@[simp] theorem State.raise_cycleNo (s : State) (k : StickyFault) : (s.raise k).cycleNo = s.cycleNo := by cases k <;> rfl

/-! ### What `quiet` leaves alone: everything the commands read -/

@[simp] theorem State.quiet_input (s : State) : s.quiet.input = s.input := rfl
@[simp] theorem State.quiet_raw (s : State) : s.quiet.raw = s.raw := rfl
@[simp] theorem State.quiet_now (s : State) : s.quiet.now = s.now := rfl
@[simp] theorem State.quiet_busy (s : State) : s.quiet.busy = s.busy := rfl
@[simp] theorem State.quiet_pressed (s : State) : s.quiet.pressed = s.pressed := rfl
@[simp] theorem State.quiet_valueWord (s : State) : s.quiet.valueWord = s.valueWord := rfl
@[simp] theorem State.quiet_status (s : State) : s.quiet.status = s.status := rfl
@[simp] theorem State.quiet_debounce (s : State) : s.quiet.debounce = s.debounce := rfl
@[simp] theorem State.quiet_gesture (s : State) : s.quiet.gesture = s.gesture := rfl
@[simp] theorem State.quiet_held (s : State) : s.quiet.held = s.held := rfl
@[simp] theorem State.quiet_readBuf (s : State) (p : Pin) (i : ByteIdx) : s.quiet.readBuf p i = s.readBuf p i := rfl
@[simp] theorem State.quiet_readFrame (s : State) (p : Pin) : s.quiet.readFrame p = s.readFrame p := rfl

/-! ### What `present` puts on the ports -/

@[simp] theorem State.present_input (s : State) (x : PortIn) : (s.present x).input = x := rfl
@[simp] theorem State.present_busy (s : State) (x : PortIn) : (s.present x).busy = s.busy := rfl
@[simp] theorem State.present_present (s : State) (x y : PortIn) : (s.present x).present y = s.present y := rfl
@[simp] theorem State.present_nextCycle (s : State) (x : PortIn) : (s.present x).nextCycle = s.nextCycle := rfl

/-- The port values of a later cycle, seen one cycle on. -/
@[simp] theorem State.nextCycle_inputAt (s : State) (k : Nat) : s.nextCycle.inputAt k = s.inputAt (k + 1) := by
  cases h : s.inputs with
  | nil => simp [State.inputAt, h, Nat.add_assoc, Nat.add_comm 1 k]
  | cons x xs => simp [State.inputAt, h, Nat.add_assoc, Nat.add_comm 1 k]

/-- The port values depend on the list of them and the cycle's number alone. -/
theorem State.inputAt_congr {s t : State} (hi : s.inputs = t.inputs) (hc : s.cycleNo = t.cycleNo) (k : Nat) :
    s.inputAt k = t.inputAt k := by
  simp [State.inputAt, hi, hc]

end Sys2Proof.Machine
end

