-- ==== Sys2Proof/Laws/Engine.lean ====
section
/-! SUPPORT. The bit engine: what its step writes in each phase, and that it writes nothing else. -/

namespace Sys2Proof.Machine

/-! ### The registers the engine never writes -/

@[simp] theorem endBit_params (s t : State) : (endBit s t).params = t.params := by unfold endBit; split <;> rfl
@[simp] theorem endBit_mem (s t : State) : (endBit s t).mem = t.mem := by unfold endBit; split <;> rfl
@[simp] theorem endBit_ovr (s t : State) : (endBit s t).ovr = t.ovr := by unfold endBit; split <;> rfl
@[simp] theorem endBit_ill (s t : State) : (endBit s t).ill = t.ill := by unfold endBit; split <;> rfl
@[simp] theorem endBit_value (s t : State) : (endBit s t).value = t.value := by unfold endBit; split <;> rfl
@[simp] theorem endBit_unstable (s t : State) : (endBit s t).unstable = t.unstable := by unfold endBit; split <;> rfl
@[simp] theorem endBit_tEdge (s t : State) : (endBit s t).tEdge = t.tEdge := by unfold endBit; split <;> rfl
@[simp] theorem endBit_tPress (s t : State) : (endBit s t).tPress = t.tPress := by unfold endBit; split <;> rfl
@[simp] theorem endBit_longFired (s t : State) : (endBit s t).longFired = t.longFired := by unfold endBit; split <;> rfl
@[simp] theorem endBit_longPending (s t : State) : (endBit s t).longPending = t.longPending := by unfold endBit; split <;> rfl
@[simp] theorem endBit_shortCount (s t : State) : (endBit s t).shortCount = t.shortCount := by unfold endBit; split <;> rfl
@[simp] theorem endBit_rspValid (s t : State) : (endBit s t).rspValid = t.rspValid := by unfold endBit; split <;> rfl
@[simp] theorem endBit_rspData (s t : State) : (endBit s t).rspData = t.rspData := by unfold endBit; split <;> rfl
@[simp] theorem endBit_inputs (s t : State) : (endBit s t).inputs = t.inputs := by unfold endBit; split <;> rfl
@[simp] theorem endBit_cycleNo (s t : State) : (endBit s t).cycleNo = t.cycleNo := by unfold endBit; split <;> rfl
@[simp] theorem endBit_sel (s t : State) : (endBit s t).sel = t.sel := by unfold endBit; split <;> rfl

@[simp] theorem engineStep_params (s t : State) : (engineStep s t).params = t.params := by
  unfold engineStep; split <;> (try split) <;> simp
@[simp] theorem engineStep_mem (s t : State) : (engineStep s t).mem = t.mem := by
  unfold engineStep; split <;> (try split) <;> simp
@[simp] theorem engineStep_ovr (s t : State) : (engineStep s t).ovr = t.ovr := by
  unfold engineStep; split <;> (try split) <;> simp
@[simp] theorem engineStep_ill (s t : State) : (engineStep s t).ill = t.ill := by
  unfold engineStep; split <;> (try split) <;> simp
@[simp] theorem engineStep_value (s t : State) : (engineStep s t).value = t.value := by
  unfold engineStep; split <;> (try split) <;> simp
@[simp] theorem engineStep_unstable (s t : State) : (engineStep s t).unstable = t.unstable := by
  unfold engineStep; split <;> (try split) <;> simp
@[simp] theorem engineStep_tEdge (s t : State) : (engineStep s t).tEdge = t.tEdge := by
  unfold engineStep; split <;> (try split) <;> simp
@[simp] theorem engineStep_tPress (s t : State) : (engineStep s t).tPress = t.tPress := by
  unfold engineStep; split <;> (try split) <;> simp
@[simp] theorem engineStep_longFired (s t : State) : (engineStep s t).longFired = t.longFired := by
  unfold engineStep; split <;> (try split) <;> simp
@[simp] theorem engineStep_longPending (s t : State) : (engineStep s t).longPending = t.longPending := by
  unfold engineStep; split <;> (try split) <;> simp
@[simp] theorem engineStep_shortCount (s t : State) : (engineStep s t).shortCount = t.shortCount := by
  unfold engineStep; split <;> (try split) <;> simp
@[simp] theorem engineStep_rspValid (s t : State) : (engineStep s t).rspValid = t.rspValid := by
  unfold engineStep; split <;> (try split) <;> simp
@[simp] theorem engineStep_rspData (s t : State) : (engineStep s t).rspData = t.rspData := by
  unfold engineStep; split <;> (try split) <;> simp
@[simp] theorem engineStep_inputs (s t : State) : (engineStep s t).inputs = t.inputs := by
  unfold engineStep; split <;> (try split) <;> simp
@[simp] theorem engineStep_cycleNo (s t : State) : (engineStep s t).cycleNo = t.cycleNo := by
  unfold engineStep; split <;> (try split) <;> simp
@[simp] theorem engineStep_sel (s t : State) : (engineStep s t).sel = t.sel := by
  unfold engineStep; split <;> (try split) <;> simp

/-! ### Its step, phase by phase (R65) -/

theorem engineStep_idle {s : State} (h : s.ph = .idle) (t : State) : engineStep s t = t := by
  simp [engineStep, h]

theorem engineStep_within_bit {s : State} (h : s.ph = .bits) (hc : s.cyc + 1 ≠ s.params.tbitCyc) (t : State) :
    engineStep s t = { t with cyc := s.cyc + 1 } := by
  simp [engineStep, h, hc]

theorem engineStep_next_bit {s : State} (h : s.ph = .bits) (hc : s.cyc + 1 = s.params.tbitCyc) (hb : s.bitcnt ≠ 23)
    (t : State) : engineStep s t = { t with cyc := 0, shreg := s.shreg <<< 1, bitcnt := s.bitcnt + 1 } := by
  simp [engineStep, endBit, h, hc, hb]

theorem engineStep_last_bit {s : State} (h : s.ph = .bits) (hc : s.cyc + 1 = s.params.tbitCyc) (hb : s.bitcnt = 23)
    (t : State) : engineStep s t =
      { t with cyc := 0, shreg := s.shreg <<< 1, bitcnt := 0, gapcnt := 0
               ph := if s.params.gapCyc = 0 then .idle else .gap } := by
  simp [engineStep, endBit, h, hc, hb]

theorem engineStep_within_gap {s : State} (h : s.ph = .gap) (hc : s.gapcnt + 1 ≠ s.params.gapCyc) (t : State) :
    engineStep s t = { t with gapcnt := s.gapcnt + 1 } := by
  simp [engineStep, h, hc]

theorem engineStep_end_gap {s : State} (h : s.ph = .gap) (hc : s.gapcnt + 1 = s.params.gapCyc) (t : State) :
    engineStep s t = { t with ph := .idle, gapcnt := 0 } := by
  simp [engineStep, h, hc]

theorem State.busy_iff (s : State) : s.busy = true ↔ s.ph ≠ .idle := by simp [State.busy]

theorem State.not_busy_iff (s : State) : s.busy = false ↔ s.ph = .idle := by simp [State.busy]

end Sys2Proof.Machine
end

