-- ==== Sys2Proof/Laws/Exec.lean ====
section
/-! SUPPORT. What each command's meaning can do, said once: the state it answers, for every state. Proofs about
commands cite these and unfold no meaning. -/

namespace Sys2Proof.Machine

theorem exec_nop (s : State) : exec .nop s = .next s := rfl

theorem exec_wbufRsvd (s : State) : exec .wbufRsvd s = .next (s.raise .illegalCommand) := rfl

theorem exec_wbuf_of_ne {i : ByteIdx} (p : Pin) (v : Byte) (s : State) (h : i ≠ 3#2) :
    exec (.wbuf p i v) s = .next (s.writeBuf p i v) := by
  simp [exec, execWbuf, h]

theorem exec_wbuf_three (p : Pin) (v : Byte) (s : State) :
    exec (.wbuf p 3#2 v) s = .next (s.raise .illegalCommand) := rfl

theorem exec_tx_idle {s : State} (p : Pin) (h : s.busy = false) : exec (.tx p) s = .next (s.startFrame p) := by
  simp [exec, execTx, h]

theorem exec_tx_busy {s : State} (p : Pin) (h : s.busy = true) : exec (.tx p) s = .next (s.raise .overrun) := by
  simp [exec, execTx, h]

theorem exec_update (s : State) : exec .update s = .next (s.setDetector s.debounce s.gesture) := rfl

theorem exec_rdValue (s : State) : exec .rdValue s = .next (s.respond s.valueWord.toNat) := rfl

theorem exec_rdShort (s : State) :
    exec .rdShort s = .next { s.respond s.shortCount with shortCount := 0 } := rfl

theorem exec_rdLong (s : State) :
    exec .rdLong s = .next { s.respond s.longPending.toNat with longPending := false } := rfl

theorem exec_rdStatus (s : State) : exec .rdStatus s = .next (s.respond s.status.toNat) := rfl

/-- Every command answers a next state in every state (R91), and what no command touches is as it was: the
parameters, the ports and the number of the cycle. -/
theorem exec_next (i : Instr) (s : State) :
    ∃ t, exec i s = .next t ∧ t.params = s.params ∧ t.inputs = s.inputs ∧ t.cycleNo = s.cycleNo := by
  cases i with
  | nop => exact ⟨_, exec_nop s, rfl, rfl, rfl⟩
  | wbufRsvd => exact ⟨_, exec_wbufRsvd s, rfl, rfl, rfl⟩
  | wbuf p i v =>
    by_cases h : i = 3#2
    · subst h; exact ⟨_, exec_wbuf_three p v s, rfl, rfl, rfl⟩
    · exact ⟨_, exec_wbuf_of_ne p v s h, rfl, rfl, rfl⟩
  | tx p =>
    cases h : s.busy with
    | false => exact ⟨_, exec_tx_idle p h, rfl, rfl, rfl⟩
    | true => exact ⟨_, exec_tx_busy p h, rfl, rfl, rfl⟩
  | update => exact ⟨_, exec_update s, rfl, rfl, rfl⟩
  | rdValue => exact ⟨_, exec_rdValue s, rfl, rfl, rfl⟩
  | rdShort => exact ⟨_, exec_rdShort s, rfl, rfl, rfl⟩
  | rdLong => exact ⟨_, exec_rdLong s, rfl, rfl, rfl⟩
  | rdStatus => exact ⟨_, exec_rdStatus s, rfl, rfl, rfl⟩

/-- Everything a command can do, said once: which state each command answers, and when. -/
theorem exec_cases {i : Instr} {s t : State} (h : exec i s = .next t) :
    (i = .nop ∧ t = s) ∨
    ((i = .wbufRsvd ∨ ∃ p v, i = .wbuf p 3#2 v) ∧ t = s.raise .illegalCommand) ∨
    (∃ p j v, i = .wbuf p j v ∧ j ≠ 3#2 ∧ t = s.writeBuf p j v) ∨
    (∃ p, i = .tx p ∧ s.busy = true ∧ t = s.raise .overrun) ∨
    (∃ p, i = .tx p ∧ s.busy = false ∧ t = s.startFrame p) ∨
    (i = .update ∧ t = s.setDetector s.debounce s.gesture) ∨
    (i = .rdValue ∧ t = s.respond s.valueWord.toNat) ∨
    (i = .rdShort ∧ t = { s.respond s.shortCount with shortCount := 0 }) ∨
    (i = .rdLong ∧ t = { s.respond s.longPending.toNat with longPending := false }) ∨
    (i = .rdStatus ∧ t = s.respond s.status.toNat) := by
  cases i with
  | nop => cases h; simp
  | wbufRsvd => cases h; simp
  | wbuf p j v =>
    by_cases hj : j = 3#2
    · subst hj; rw [exec_wbuf_three] at h; cases h; simp
    · rw [exec_wbuf_of_ne p v s hj] at h; cases h; simp [hj]
  | tx p =>
    cases hb : s.busy with
    | true => rw [exec_tx_busy p hb] at h; cases h; simp
    | false => rw [exec_tx_idle p hb] at h; cases h; simp
  | update => cases h; simp
  | rdValue => cases h; simp
  | rdShort => cases h; simp
  | rdLong => cases h; simp
  | rdStatus => cases h; simp

/-! ### The two stages of UPDATE, by cases (R75, R82) -/

theorem debounceStage_stable_same (P : Params) {v raw : Bool} (t now : Nat) (h : raw = v) :
    debounceStage P v false t raw now = ⟨v, false, t, false⟩ := by simp [debounceStage, h]

theorem debounceStage_stable_new (P : Params) {v raw : Bool} (t now : Nat) (h : raw ≠ v) :
    debounceStage P v false t raw now = ⟨v, true, now, false⟩ := by simp [debounceStage, h]

theorem debounceStage_unstable_back (P : Params) {v raw : Bool} (t now : Nat) (h : raw = v) :
    debounceStage P v true t raw now = ⟨v, false, t, false⟩ := by simp [debounceStage, h]

theorem debounceStage_accepts {P : Params} {v raw : Bool} {t now : Nat} (h : raw ≠ v)
    (hd : P.debounceMs ≤ tickDiff P now t) : debounceStage P v true t raw now = ⟨raw, false, t, true⟩ := by
  simp [debounceStage, h, hd]

theorem debounceStage_waits {P : Params} {v raw : Bool} {t now : Nat} (h : raw ≠ v)
    (hd : tickDiff P now t < P.debounceMs) : debounceStage P v true t raw now = ⟨v, true, t, false⟩ := by
  simp [debounceStage, h, Nat.not_le.2 hd]

/-- Everything the debounce stage can do (R75). -/
theorem debounceStage_cases (P : Params) (v u : Bool) (t : Nat) (raw : Bool) (now : Nat) :
    (raw = v ∧ debounceStage P v u t raw now = ⟨v, false, t, false⟩) ∨
    (raw ≠ v ∧ u = false ∧ debounceStage P v u t raw now = ⟨v, true, now, false⟩) ∨
    (raw ≠ v ∧ u = true ∧ P.debounceMs ≤ tickDiff P now t ∧ debounceStage P v u t raw now = ⟨raw, false, t, true⟩) ∨
    (raw ≠ v ∧ u = true ∧ tickDiff P now t < P.debounceMs ∧ debounceStage P v u t raw now = ⟨v, true, t, false⟩) := by
  by_cases h : raw = v
  · cases u
    · exact .inl ⟨h, debounceStage_stable_same P t now h⟩
    · exact .inl ⟨h, debounceStage_unstable_back P t now h⟩
  · cases u
    · exact .inr (.inl ⟨h, rfl, debounceStage_stable_new P t now h⟩)
    · rcases Nat.lt_or_ge (tickDiff P now t) P.debounceMs with hd | hd
      · exact .inr (.inr (.inr ⟨h, rfl, hd, debounceStage_waits h hd⟩))
      · exact .inr (.inr (.inl ⟨h, rfl, hd, debounceStage_accepts h hd⟩))

/-- The edge is where the stable value changes (R75, R76). -/
theorem debounceStage_edge_iff (P : Params) (v u : Bool) (t : Nat) (raw : Bool) (now : Nat) :
    (debounceStage P v u t raw now).edge = true ↔ (debounceStage P v u t raw now).value ≠ v := by
  rcases debounceStage_cases P v u t raw now with ⟨_, h⟩ | ⟨_, _, h⟩ | ⟨hr, _, _, h⟩ | ⟨_, _, _, h⟩ <;> simp [h]
  exact hr

theorem gestureStage_press (P : Params) {v : Bool} (t : Nat) (f p : Bool) (c : Nat) (now : Nat)
    (h : v = P.pressedLevel) : gestureStage P v true t f p c now = ⟨now, false, p, c⟩ := by
  simp [gestureStage, h]

theorem gestureStage_release_late {P : Params} {v : Bool} {t now : Nat} (p : Bool) (c : Nat)
    (h : v ≠ P.pressedLevel) (hl : P.longMs < tickDiff P now t) :
    gestureStage P v true t false p c now = ⟨t, false, true, c⟩ := by
  simp [gestureStage, h, hl]

theorem gestureStage_release_short {P : Params} {v : Bool} {t now : Nat} (p : Bool) (c : Nat)
    (h : v ≠ P.pressedLevel) (hl : tickDiff P now t ≤ P.longMs) :
    gestureStage P v true t false p c now = ⟨t, false, p, satInc P c⟩ := by
  simp [gestureStage, h, Nat.not_lt.2 hl]

theorem gestureStage_release_fired (P : Params) {v : Bool} (t : Nat) (p : Bool) (c : Nat) (now : Nat)
    (h : v ≠ P.pressedLevel) : gestureStage P v true t true p c now = ⟨t, false, p, c⟩ := by
  simp [gestureStage, h]

theorem gestureStage_fires {P : Params} {v : Bool} {t now : Nat} (p : Bool) (c : Nat)
    (h : v = P.pressedLevel) (hl : P.longMs < tickDiff P now t) :
    gestureStage P v false t false p c now = ⟨t, true, true, c⟩ := by
  simp [gestureStage, h, hl]

theorem gestureStage_rests {P : Params} {v f : Bool} {t now : Nat} (p : Bool) (c : Nat)
    (h : v ≠ P.pressedLevel ∨ f = true ∨ tickDiff P now t ≤ P.longMs) :
    gestureStage P v false t f p c now = ⟨t, f, p, c⟩ := by
  have : ¬(v = P.pressedLevel ∧ f = false ∧ P.longMs < tickDiff P now t) := by
    rintro ⟨h1, h2, h3⟩
    rcases h with h | h | h
    · exact h h1
    · simp [h2] at h
    · omega
  simp [gestureStage, this]

end Sys2Proof.Machine
end

