-- ==== Sys2Proof/Laws/Step.lean ====
section
/-! SUPPORT. What one clock cycle can do, said once, and the states of a run. -/

namespace Sys2Proof.Machine

/-! ### The command of a cycle -/

theorem State.command_eq_some {s : State} {i : Instr} :
    s.command = some i ↔ s.input.rst = false ∧ s.input.cmdValid = true ∧ decode s.input.cmd = i := by
  simp [State.command, and_assoc]

theorem State.command_of_rst {s : State} (h : s.input.rst = true) : s.command = none := by
  simp [State.command, h]

/-! ### One cycle, case by case (R91) -/

theorem step_reset {s : State} (h : s.input.rst = true) : step s = .next s.resetRegs.nextCycle := by
  simp [step, h]

theorem step_no_command {s : State} (h : s.input.rst = false) (hc : s.command = none) :
    step s = .next (engineStep s s.quiet).nextCycle := by
  have : s.input.cmdValid = false := by simpa [State.command, h] using hc
  simp [step, h, runCommand, this, onNext]

theorem step_command {s t : State} {i : Instr} (hc : s.command = some i) (he : exec i s.quiet = .next t) :
    step s = .next (engineStep s t).nextCycle := by
  obtain ⟨h, hv, rfl⟩ := State.command_eq_some.1 hc
  simp [step, h, runCommand, hv, he, onNext]

/-- Everything a cycle can do: reset, no command, or a command. -/
theorem step_cases (s : State) :
    (s.input.rst = true ∧ step s = .next s.resetRegs.nextCycle) ∨
    (s.input.rst = false ∧ s.command = none ∧ step s = .next (engineStep s s.quiet).nextCycle) ∨
    (s.input.rst = false ∧ ∃ i t, s.command = some i ∧ exec i s.quiet = .next t ∧
      step s = .next (engineStep s t).nextCycle) := by
  cases h : s.input.rst with
  | true => exact .inl ⟨rfl, step_reset h⟩
  | false =>
    cases hc : s.command with
    | none => exact .inr (.inl ⟨rfl, rfl, step_no_command h hc⟩)
    | some i =>
      obtain ⟨t, he, -⟩ := exec_next i s.quiet
      exact .inr (.inr ⟨rfl, i, t, rfl, he, step_command hc he⟩)

/-! ### The states of a run -/

@[simp] theorem State.after_zero (s : State) : s.after 0 = s := rfl

/-- Every cycle has its next state, the next of the run; and it spends one cycle's port values and keeps the
parameters. -/
theorem step_after (s : State) (n : Nat) :
    step (s.after n) = .next (s.after (n + 1)) ∧ (s.after (n + 1)).params = (s.after n).params ∧
      (s.after (n + 1)).inputs = (s.after n).inputs.tail ∧ (s.after (n + 1)).cycleNo = (s.after n).cycleNo + 1 := by
  rcases step_cases (s.after n) with ⟨-, h⟩ | ⟨-, -, h⟩ | ⟨-, i, t, -, he, h⟩
  · simp [State.after, h]
  · simp [State.after, h]
  · obtain ⟨u, hu, hp, hi, hc⟩ := exec_next i (s.after n).quiet
    have htu : t = u := by simpa [he] using hu
    subst htu
    simp [State.after, h, hp, hi, hc]

/-- The port values of the `n`-th cycle of a run are those the state it starts in lists, or the environment's. -/
theorem State.after_inputAt (s : State) (n k : Nat) : (s.after n).inputAt k = s.inputAt (n + k) := by
  induction n generalizing k with
  | zero => simp
  | succ n ih =>
    obtain ⟨-, -, hi, hc⟩ := step_after s n
    have : (s.after (n + 1)).inputAt k = (s.after n).nextCycle.inputAt k := State.inputAt_congr hi hc k
    rw [this, State.nextCycle_inputAt, ih]
    congr 1
    omega

@[simp] theorem State.after_input (s : State) (n : Nat) : (s.after n).input = s.inputAt n :=
  State.after_inputAt s n 0

/-- A run of `n` more cycles. -/
theorem State.after_add (s : State) (m n : Nat) : s.after (m + n) = (s.after m).after n := by
  induction n with
  | zero => rfl
  | succ n ih => rw [← Nat.add_assoc]; simp only [State.after, ih]

/-- What holds now and is kept by every cycle of a run holds all along it. -/
theorem State.after_induction {C : State → Prop} {s : State} {n : Nat} (h0 : C s)
    (hs : ∀ k < n, C (s.after k) → C (s.after (k + 1))) : ∀ k ≤ n, C (s.after k) := by
  intro k
  induction k with
  | zero => exact fun _ => h0
  | succ k ih => exact fun hk => hs k hk (ih (by omega))

end Sys2Proof.Machine
end

