-- ==== Sys2Proof/Laws/Host.lean ====
section
/-! SUPPORT. Listings on the ports, line by line, and the fields of a host with its block after each of its operations. -/

namespace Sys2Proof.Machine

/-! ### A listing on the ports -/

@[simp] theorem State.list_params (s : State) (raw : Bool) (now : Nat) (ls : List Line) : (s.list raw now ls).params = s.params := rfl
@[simp] theorem State.list_mem (s : State) (raw : Bool) (now : Nat) (ls : List Line) : (s.list raw now ls).mem = s.mem := rfl
@[simp] theorem State.list_shreg (s : State) (raw : Bool) (now : Nat) (ls : List Line) : (s.list raw now ls).shreg = s.shreg := rfl
@[simp] theorem State.list_sel (s : State) (raw : Bool) (now : Nat) (ls : List Line) : (s.list raw now ls).sel = s.sel := rfl
@[simp] theorem State.list_ph (s : State) (raw : Bool) (now : Nat) (ls : List Line) : (s.list raw now ls).ph = s.ph := rfl
@[simp] theorem State.list_bitcnt (s : State) (raw : Bool) (now : Nat) (ls : List Line) : (s.list raw now ls).bitcnt = s.bitcnt := rfl
@[simp] theorem State.list_cyc (s : State) (raw : Bool) (now : Nat) (ls : List Line) : (s.list raw now ls).cyc = s.cyc := rfl
@[simp] theorem State.list_gapcnt (s : State) (raw : Bool) (now : Nat) (ls : List Line) : (s.list raw now ls).gapcnt = s.gapcnt := rfl
@[simp] theorem State.list_ovr (s : State) (raw : Bool) (now : Nat) (ls : List Line) : (s.list raw now ls).ovr = s.ovr := rfl
@[simp] theorem State.list_ill (s : State) (raw : Bool) (now : Nat) (ls : List Line) : (s.list raw now ls).ill = s.ill := rfl
@[simp] theorem State.list_value (s : State) (raw : Bool) (now : Nat) (ls : List Line) : (s.list raw now ls).value = s.value := rfl
@[simp] theorem State.list_unstable (s : State) (raw : Bool) (now : Nat) (ls : List Line) : (s.list raw now ls).unstable = s.unstable := rfl
@[simp] theorem State.list_tEdge (s : State) (raw : Bool) (now : Nat) (ls : List Line) : (s.list raw now ls).tEdge = s.tEdge := rfl
@[simp] theorem State.list_tPress (s : State) (raw : Bool) (now : Nat) (ls : List Line) : (s.list raw now ls).tPress = s.tPress := rfl
@[simp] theorem State.list_longFired (s : State) (raw : Bool) (now : Nat) (ls : List Line) : (s.list raw now ls).longFired = s.longFired := rfl
@[simp] theorem State.list_longPending (s : State) (raw : Bool) (now : Nat) (ls : List Line) : (s.list raw now ls).longPending = s.longPending := rfl
@[simp] theorem State.list_shortCount (s : State) (raw : Bool) (now : Nat) (ls : List Line) : (s.list raw now ls).shortCount = s.shortCount := rfl
@[simp] theorem State.list_rspValid (s : State) (raw : Bool) (now : Nat) (ls : List Line) : (s.list raw now ls).rspValid = s.rspValid := rfl
@[simp] theorem State.list_rspData (s : State) (raw : Bool) (now : Nat) (ls : List Line) : (s.list raw now ls).rspData = s.rspData := rfl
@[simp] theorem State.list_cycleNo (s : State) (raw : Bool) (now : Nat) (ls : List Line) : (s.list raw now ls).cycleNo = s.cycleNo := rfl

@[simp] theorem State.list_inputs (s : State) (raw : Bool) (now : Nat) (ls : List Line) :
    (s.list raw now ls).inputs = listing raw now ls ++ s.inputs := rfl

@[simp] theorem listing_length (raw : Bool) (now : Nat) (ls : List Line) : (listing raw now ls).length = ls.length := by
  induction ls generalizing raw now with
  | nil => rfl
  | cons l ls ih => simp [listing, ih]

/-- A listing holds no reset. -/
theorem listing_rst {raw : Bool} {now : Nat} {ls : List Line} {x : PortIn} (h : x ∈ listing raw now ls) :
    x.rst = false := by
  induction ls generalizing raw now with
  | nil => simp [listing] at h
  | cons l ls ih =>
    rcases List.mem_cons.1 h with rfl | h
    · rfl
    · exact ih h

/-- So a run over a listing is without reset. -/
theorem State.list_noReset (s : State) (raw : Bool) (now : Nat) (ls : List Line) :
    (s.list raw now ls).noReset ls.length := by
  intro k hk
  have hk' : k < (listing raw now ls).length := by simpa using hk
  have hx : (s.list raw now ls).inputAt k = (listing raw now ls)[k] := by
    simp only [State.inputAt, State.list_inputs, List.getElem?_append_left hk', List.getElem?_eq_getElem hk']
  rw [hx]
  exact listing_rst (List.getElem_mem hk')

/-- The inputs after `n` cycles are those listed beyond the first `n`. -/
theorem State.after_inputs (s : State) (n : Nat) : (s.after n).inputs = s.inputs.drop n := by
  induction n with
  | zero => rfl
  | succ n ih => rw [(step_after s n).2.2.1, ih, List.tail_drop]

@[simp] theorem State.runLines_inputs (s : State) (raw : Bool) (now : Nat) (ls : List Line) :
    (s.runLines raw now ls).inputs = s.inputs := by
  simp [State.runLines, State.after_inputs, List.drop_left']

@[simp] theorem State.runLines_params (s : State) (raw : Bool) (now : Nat) (ls : List Line) :
    (s.runLines raw now ls).params = s.params :=
  State.after_induction (s := s.list raw now ls) (C := fun t => t.params = s.params) rfl
    (fun k _ h => (step_after _ k).2.1.trans h) ls.length le_rfl

@[simp] theorem State.list_busyCycles (s : State) (raw : Bool) (now : Nat) (ls : List Line) :
    (s.list raw now ls).busyCycles = s.busyCycles := rfl

@[simp] theorem State.list_readBuf (s : State) (raw : Bool) (now : Nat) (ls : List Line) (p : Pin) (i : ByteIdx) :
    (s.list raw now ls).readBuf p i = s.readBuf p i := rfl

/-- The number of cycles of a wait and of a TRANSMIT. -/
theorem State.runLines_waitLines (s : State) (raw : Bool) (now n : Nat) :
    s.runLines raw now (waitLines n) = (s.list raw now (waitLines n)).after n := by
  rw [State.runLines, show (waitLines n).length = n from List.length_replicate ..]

theorem State.runLines_transmit (s : State) (raw : Bool) (now : Nat) (p : Pin) (b0 b1 b2 : Byte) :
    s.runLines raw now (transmit p b0 b1 b2) = (s.list raw now (transmit p b0 b1 b2)).after 4 := by
  rw [State.runLines, show (transmit p b0 b1 b2).length = 4 from rfl]

/-! ### Line by line -/

/-- The state with other ports in the coming cycles. -/
def State.withInputs (s : State) (xs : List PortIn) : State := { s with inputs := xs }

@[simp] theorem State.withInputs_withInputs (s : State) (xs ys : List PortIn) :
    (s.withInputs xs).withInputs ys = s.withInputs ys := rfl

/-- What the ports hold after this cycle does not change what this cycle does. -/
theorem exec_withInputs {i : Instr} {s t : State} {x : PortIn} {r r' : List PortIn}
    (h : exec i (s.withInputs (x :: r)) = .next t) :
    exec i (s.withInputs (x :: r')) = .next (t.withInputs (x :: r')) := by
  rcases exec_cases h with ⟨rfl, rfl⟩ | ⟨rfl | ⟨p, v, rfl⟩, rfl⟩ | ⟨p, j, v, rfl, hj, rfl⟩ | ⟨p, rfl, hb, rfl⟩ |
    ⟨p, rfl, hb, rfl⟩ | ⟨rfl, rfl⟩ | ⟨rfl, rfl⟩ | ⟨rfl, rfl⟩ | ⟨rfl, rfl⟩ | ⟨rfl, rfl⟩
  · rfl
  · rfl
  · exact exec_wbuf_three p v _
  · exact exec_wbuf_of_ne p v _ hj
  · exact exec_tx_busy p (s := s.withInputs (x :: r')) hb
  · exact exec_tx_idle p (s := s.withInputs (x :: r')) hb
  all_goals rfl

/-- The engine reads no port. -/
@[simp] theorem engineStep_withInputs_left (s t : State) (xs : List PortIn) :
    engineStep (s.withInputs xs) t = engineStep s t := rfl

@[simp] theorem engineStep_withInputs (s t : State) (ys : List PortIn) :
    engineStep s (t.withInputs ys) = (engineStep s t).withInputs ys := by
  cases h : s.ph <;> simp only [engineStep, endBit, State.withInputs, h] <;> (repeat' split) <;> rfl

@[simp] theorem State.withInputs_quiet (s : State) (xs : List PortIn) :
    (s.withInputs xs).quiet = s.quiet.withInputs xs := rfl

@[simp] theorem State.withInputs_nextCycle (s : State) (xs : List PortIn) :
    (s.withInputs xs).nextCycle = s.nextCycle.withInputs xs.tail := rfl

/-- The same of a whole cycle. -/
theorem step_withInputs {s t : State} {x : PortIn} {r r' : List PortIn} (h : step (s.withInputs (x :: r)) = .next t) :
    step (s.withInputs (x :: r')) = .next (t.withInputs r') := by
  have hc : (s.withInputs (x :: r')).command = (s.withInputs (x :: r)).command := rfl
  rcases step_cases (s.withInputs (x :: r)) with ⟨hr, h'⟩ | ⟨hr, hn, h'⟩ | ⟨hr, i, u, hi, he, h'⟩
  all_goals obtain rfl : _ = t := Host.Outcome.next.inj (h'.symm.trans h)
  · exact step_reset (s := s.withInputs (x :: r')) hr
  · rw [step_no_command (s := s.withInputs (x :: r')) hr (hc.trans hn)]
    simp
  · rw [step_command (s := s.withInputs (x :: r')) (hc.trans hi) (exec_withInputs (s := s.quiet) he)]
    simp

/-- A cycle of a listing, then those after it. -/
theorem State.after_withInputs_cons (s : State) (x : PortIn) (r : List PortIn) (n : Nat) :
    (s.withInputs (x :: r)).after (n + 1) = (((s.withInputs [x]).after 1).withInputs r).after n := by
  have h1 := (step_after (s.withInputs [x]) 0).1
  rw [Nat.add_comm n 1, State.after_add]
  have h2 := (step_after (s.withInputs (x :: r)) 0).1
  rw [State.after_zero] at h1 h2
  rw [Host.Outcome.next.inj (h2.symm.trans (step_withInputs (r' := r) h1))]

/-- The first line of a listing, then the others. -/
theorem State.runLines_cons (s : State) (raw : Bool) (now : Nat) (l : Line) (ls : List Line) :
    s.runLines raw now (l :: ls) = (s.runLines raw now [l]).runLines (l.raw.getD raw) (l.now.getD now) ls := by
  have h (r : List PortIn) := s.after_withInputs_cons (l.ports raw now) r
  have h1 : s.runLines raw now [l] = ((s.withInputs [l.ports raw now]).after 1).withInputs s.inputs := h s.inputs 0
  rw [h1]
  exact h _ ls.length

theorem State.runLines_append (s : State) (raw : Bool) (now : Nat) (ls ms : List Line)
    (h : ∀ l ∈ ls, l.raw = none ∧ l.now = none) :
    s.runLines raw now (ls ++ ms) = (s.runLines raw now ls).runLines raw now ms := by
  induction ls generalizing s with
  | nil => rfl
  | cons l ls ih =>
    obtain ⟨hr, hn⟩ := h l (by simp)
    rw [List.cons_append, State.runLines_cons, State.runLines_cons s raw now l ls, hr, hn]
    exact ih _ fun m hm => h m (by simp [hm])

/-! ### One line -/

/-- A line with a command runs it, beside the engine; the host's ports give it its operands. -/
theorem State.runLines_command {s t : State} {raw : Bool} {now : Nat} {l : Line} {i : Instr} (hi : l.command = some i)
    (hd : decode (encode i) = i) (he : exec i (s.list raw now [l]).quiet = .next t) :
    s.runLines raw now [l] = (engineStep s t).nextCycle := by
  have hc : (s.list raw now [l]).command = some i :=
    State.command_eq_some.2 ⟨rfl, by show l.command.isSome = true; simp [hi], by
      show decode (l.ports raw now).cmd = i
      simpa [Line.ports, hi] using hd⟩
  exact Host.Outcome.next.inj ((step_after (s.list raw now [l]) 0).1.symm.trans (step_command hc he))

/-- An idle line is a cycle of the engine alone. -/
theorem State.runLines_idle (s : State) (raw : Bool) (now : Nat) :
    s.runLines raw now [Line.idle] = (engineStep s (s.list raw now [Line.idle]).quiet).nextCycle :=
  Host.Outcome.next.inj ((step_after (s.list raw now [Line.idle]) 0).1.symm.trans
    (step_no_command (s := s.list raw now [Line.idle]) rfl (by simp [State.command, State.input, State.inputAt, listing, Line.ports, Line.idle])))

/-- The ports have no part in the invariant. -/
theorem Inv.list {s : State} (h : Inv s) (raw : Bool) (now : Nat) (ls : List Line) : Inv (s.list raw now ls) :=
  ⟨h.params_wf, h.mem_wf, h.engine_ok, h.tEdge_lt, h.tPress_lt, h.shortCount_lt, h.rspData_lt, h.rsp_quiet,
    h.fired_pressed⟩

/-! ### The host with its block -/

@[simp] theorem HostSystem.cycles_host (w : HostSystem) (e : HostSeen) (ls : List Line) :
    (w.cycles e ls).host = w.host := rfl
@[simp] theorem HostSystem.cycles_reports (w : HostSystem) (e : HostSeen) (ls : List Line) :
    (w.cycles e ls).reports = w.reports := rfl
@[simp] theorem HostSystem.cycles_block (w : HostSystem) (e : HostSeen) (ls : List Line) :
    (w.cycles e ls).block = w.block.runLines e.raw e.now ls := rfl

@[simp] theorem HostSystem.ask_host (w : HostSystem) (e : HostSeen) (i : Instr) : (w.ask e i).host = w.host := rfl
@[simp] theorem HostSystem.ask_reports (w : HostSystem) (e : HostSeen) (i : Instr) : (w.ask e i).reports = w.reports := rfl

@[simp] theorem HostSystem.send_host (w : HostSystem) (e : HostSeen) (ls : List Line) : (w.send e ls).host = w.host := rfl
@[simp] theorem HostSystem.send_reports (w : HostSystem) (e : HostSeen) (ls : List Line) :
    (w.send e ls).reports = w.reports := rfl

@[simp] theorem HostSystem.report_host (k : HostChoices) (w : HostSystem) (es : List ParseError) :
    (w.report k es).host = w.host := rfl
@[simp] theorem HostSystem.report_block (k : HostChoices) (w : HostSystem) (es : List ParseError) :
    (w.report k es).block = w.block := rfl

@[simp] theorem HostSystem.sendExt_host (w : HostSystem) (e : HostSeen) (c : Colour) : (w.sendExt e c).host = w.host := by
  rw [HostSystem.sendExt, HostSystem.send_host]
@[simp] theorem HostSystem.sendOnb_host (w : HostSystem) (e : HostSeen) (c : Colour) : (w.sendOnb e c).host = w.host := by
  rw [HostSystem.sendOnb, HostSystem.send_host]
@[simp] theorem HostSystem.sample_host (w : HostSystem) (e : HostSeen) : (w.sample e).host = w.host := by
  rw [HostSystem.sample, HostSystem.cycles_host]
@[simp] theorem HostSystem.showColour_host (w : HostSystem) (e : HostSeen) : (w.showColour e).host = w.host := by
  rw [HostSystem.showColour, HostSystem.sendExt_host, HostSystem.ask_host]
@[simp] theorem HostSystem.sleep_host (k : HostChoices) (w : HostSystem) (e : HostSeen) :
    (w.sleep k e).host = w.host := by
  rw [HostSystem.sleep, HostSystem.cycles_host]

/-- A command asked of an idle block: the state its meaning gives, in the next cycle. -/
theorem HostSystem.ask_block {w : HostSystem} {e : HostSeen} {i : Instr} {t : State} (hd : decode (encode i) = i)
    (hp : w.block.ph = .idle) (he : exec i (w.block.list e.raw e.now [Line.of i]).quiet = .next t) :
    (w.ask e i).block = t.nextCycle := by
  have h := State.runLines_command (s := w.block) (l := Line.of i) rfl hd he
  rw [engineStep_idle hp] at h
  exact h

/-! ### The loop (R98) -/

/-- What every iteration keeps holds after every number of iterations. -/
theorem HostSystem.loop_induction {C : HostSystem → Prop} {k : HostChoices} {w : HostSystem} (seen : Nat → HostSeen)
    (h0 : C w) (hstep : ∀ v e, C v → C (v.iteration k e)) (n : Nat) : C (w.loop k seen n) := by
  induction n with
  | zero => exact h0
  | succ n ih => exact hstep _ _ ih

end Sys2Proof.Machine
end

