-- ==== Sys2Proof/Laws/Memory.lean ====
section
/-! SUPPORT. The buffer space: a write is read back, leaves every other byte alone and keeps the canonical form;
two canonical memories that read alike are equal. -/

namespace Sys2Proof.Machine

/-! ### Addresses -/

theorem bufAddr_eq_iff {p q : Pin} {i j : ByteIdx} : bufAddr p i = bufAddr q j ↔ p = q ∧ i = j := by
  revert p q i j; decide

theorem bufAddr_mapped {p : Pin} {i : ByteIdx} (h : i ≠ 3#2) : bufMapped (bufAddr p i) = true := by
  revert p i; decide

/-! ### The canonical form -/

theorem Memory.wfFrom_cons {lo a : Nat} {x : Byte} {m : Memory} :
    Memory.wfFrom lo ((a, x) :: m) = true ↔
      lo ≤ a ∧ bufMapped a = true ∧ x ≠ Memory.unlisted ∧ Memory.wfFrom (a + 1) m = true := by
  simp [Memory.wfFrom, and_assoc]

theorem Memory.wfFrom_mono {lo lo' : Nat} {m : Memory} (h : Memory.wfFrom lo' m = true) (hl : lo ≤ lo') :
    Memory.wfFrom lo m = true := by
  cases m with
  | nil => rfl
  | cons c m =>
    rw [Memory.wfFrom_cons] at h ⊢
    exact ⟨hl.trans h.1, h.2⟩

/-- A write at a mapped address keeps the canonical form. -/
theorem Memory.wfFrom_write {lo a : Nat} {x : Byte} {m : Memory} (h : Memory.wfFrom lo m = true) (hl : lo ≤ a)
    (ha : bufMapped a = true) : Memory.wfFrom lo (m.write a x) = true := by
  induction m generalizing lo with
  | nil =>
    by_cases hx : x = Memory.unlisted
    · simp [Memory.write, hx, Memory.wfFrom]
    · simp [Memory.write, hx, Memory.wfFrom, hl, ha]
  | cons c m ih =>
    obtain ⟨b, y⟩ := c
    rw [Memory.wfFrom_cons] at h
    obtain ⟨hb, hm, hy, hw⟩ := h
    unfold Memory.write
    split
    · rename_i hab
      split
      · exact Memory.wfFrom_cons.2 ⟨hb, hm, hy, hw⟩
      · exact Memory.wfFrom_cons.2 ⟨hl, ha, ‹_›, Memory.wfFrom_cons.2 ⟨hab, hm, hy, hw⟩⟩
    · split
      · rename_i hab
        subst hab
        split
        · exact Memory.wfFrom_mono hw (by omega)
        · exact Memory.wfFrom_cons.2 ⟨hl, ha, ‹_›, hw⟩
      · exact Memory.wfFrom_cons.2 ⟨hb, hm, hy, ih hw (by omega)⟩

theorem Memory.wf_write {a : Nat} {x : Byte} {m : Memory} (h : m.wf = true) (ha : bufMapped a = true) :
    (m.write a x).wf = true :=
  Memory.wfFrom_write h (Nat.zero_le a) ha

theorem Memory.wf_nil : Memory.wf [] = true := rfl

/-- The reset state's buffer space is canonical. -/
theorem Memory.wf_reset (P : Params) : (State.resetOf P).mem.wf = true := rfl

/-- Writing one byte of a buffer keeps the canonical form. -/
theorem State.writeBuf_wf {s : State} {p : Pin} {i : ByteIdx} (v : Byte) (h : s.mem.wf = true) (hi : i ≠ 3#2) :
    (s.writeBuf p i v).mem.wf = true :=
  Memory.wf_write h (bufAddr_mapped hi)

/-! ### Reading -/

/-- Below every listed address a canonical memory reads as unlisted. -/
theorem Memory.read_of_lt {lo a : Nat} {m : Memory} (h : Memory.wfFrom lo m = true) (ha : a < lo) :
    m.read a = Memory.unlisted := by
  induction m generalizing lo with
  | nil => rfl
  | cons c m ih =>
    obtain ⟨b, y⟩ := c
    rw [Memory.wfFrom_cons] at h
    have hne : a ≠ b := by omega
    simp only [Memory.read, hne, if_false]
    exact ih h.2.2.2 (by omega)

/-- A write leaves every other address alone. -/
theorem Memory.read_write_ne {a b : Nat} (x : Byte) (m : Memory) (h : b ≠ a) : (m.write a x).read b = m.read b := by
  induction m with
  | nil => by_cases hx : x = Memory.unlisted <;> simp [Memory.write, Memory.read, hx, h]
  | cons c m ih =>
    obtain ⟨d, y⟩ := c
    unfold Memory.write
    split
    · split <;> simp [Memory.read, h]
    · split
      · rename_i had
        subst had
        split <;> simp [Memory.read, h]
      · simp [Memory.read, ih]

/-- A write to a canonical memory is read back. -/
theorem Memory.read_write_same {lo a : Nat} (x : Byte) {m : Memory} (h : Memory.wfFrom lo m = true) :
    (m.write a x).read a = x := by
  induction m generalizing lo with
  | nil => by_cases hx : x = Memory.unlisted <;> simp [Memory.write, Memory.read, hx]
  | cons c m ih =>
    obtain ⟨b, y⟩ := c
    rw [Memory.wfFrom_cons] at h
    unfold Memory.write
    split
    · rename_i hab
      split
      · rename_i hx
        have hne : a ≠ b := by omega
        simp only [Memory.read, hne, if_false, hx]
        exact Memory.read_of_lt h.2.2.2 (by omega)
      · simp [Memory.read]
    · split
      · split
        · rename_i hx
          rw [hx]
          exact Memory.read_of_lt h.2.2.2 (by omega)
        · simp [Memory.read]
      · rename_i hne
        simp only [Memory.read, hne, if_false]
        exact ih h.2.2.2

theorem State.readBuf_writeBuf_same {s : State} (p : Pin) (i : ByteIdx) (v : Byte) (h : s.mem.wf = true) :
    (s.writeBuf p i v).readBuf p i = v :=
  Memory.read_write_same v h

theorem State.readBuf_writeBuf_ne {s : State} {p q : Pin} {i j : ByteIdx} (v : Byte) (h : q ≠ p ∨ j ≠ i) :
    (s.writeBuf p i v).readBuf q j = s.readBuf q j := by
  refine Memory.read_write_ne v s.mem fun he => ?_
  obtain ⟨rfl, rfl⟩ := bufAddr_eq_iff.1 he
  simp at h

/-- A memory that reads as unlisted everywhere and is canonical is empty. -/
theorem Memory.eq_nil_of_read {lo : Nat} {m : Memory} (h : Memory.wfFrom lo m = true)
    (hr : ∀ a, m.read a = Memory.unlisted) : m = [] := by
  cases m with
  | nil => rfl
  | cons c m =>
    obtain ⟨a, x⟩ := c
    rw [Memory.wfFrom_cons] at h
    have := hr a
    simp [Memory.read, h.2.2.1] at this

/-- Equal memories are equal data: canonical memories that read alike at every address are equal. -/
theorem Memory.ext_read {lo : Nat} {m n : Memory} (hm : Memory.wfFrom lo m = true) (hn : Memory.wfFrom lo n = true)
    (h : ∀ a, m.read a = n.read a) : m = n := by
  induction m generalizing n lo with
  | nil => exact (Memory.eq_nil_of_read hn fun a => (h a).symm).symm
  | cons c m ih =>
    obtain ⟨a, x⟩ := c
    cases n with
    | nil => exact Memory.eq_nil_of_read hm h
    | cons d n =>
      obtain ⟨b, y⟩ := d
      rw [Memory.wfFrom_cons] at hm hn
      have hab : a = b := by
        rcases Nat.lt_trichotomy a b with hlt | heq | hlt
        · have := h a
          rw [Memory.read_of_lt (Memory.wfFrom_cons.2 ⟨Nat.le_refl b, hn.2⟩) hlt] at this
          simp [Memory.read, hm.2.2.1] at this
        · exact heq
        · have := h b
          rw [Memory.read_of_lt (Memory.wfFrom_cons.2 ⟨Nat.le_refl a, hm.2⟩) hlt] at this
          simp [Memory.read, Ne.symm hn.2.2.1] at this
      subst hab
      have hxy : x = y := by simpa [Memory.read] using h a
      subst hxy
      have hmn : m = n := by
        refine ih hm.2.2.2 hn.2.2.2 fun c => ?_
        by_cases hc : c = a
        · subst hc
          rw [Memory.read_of_lt hm.2.2.2 (by omega), Memory.read_of_lt hn.2.2.2 (by omega)]
        · simpa [Memory.read, hc] using h c
      rw [hmn]

end Sys2Proof.Machine
end

