-- ==== Sys2Proof/Laws/PerInstr.lean ====
section
/-! SUPPORT. The families of statements about every command as syntax, one lemma per constructor of Instr. -/

namespace Sys2Proof.Laws

/-! ### RoundTrip: a well-formed command comes back from its word -/

def RoundTrip.Statement (i : Instr) : Prop := i.wf = true → decode (encode i) = i

theorem RoundTrip.nop : RoundTrip.Statement .nop := fun _ => by decide
theorem RoundTrip.wbufRsvd : RoundTrip.Statement .wbufRsvd := fun _ => by decide
theorem RoundTrip.tx (p : Pin) : RoundTrip.Statement (.tx p) := fun _ => by revert p; decide
theorem RoundTrip.update : RoundTrip.Statement .update := fun _ => by decide
theorem RoundTrip.rdValue : RoundTrip.Statement .rdValue := fun _ => by decide
theorem RoundTrip.rdShort : RoundTrip.Statement .rdShort := fun _ => by decide
theorem RoundTrip.rdLong : RoundTrip.Statement .rdLong := fun _ => by decide
theorem RoundTrip.rdStatus : RoundTrip.Statement .rdStatus := fun _ => by decide

theorem RoundTrip.wbuf (p : Pin) (i : ByteIdx) (v : Byte) : RoundTrip.Statement (.wbuf p i v) := fun h => by
  obtain ⟨ho, hp, hi, hv⟩ := pack_fields v i p 1#3
  have h3 : i ≠ 3#2 := by simpa [Instr.wf] using h
  simp [encode, decode, ho, hp, hi, hv, h3]

end Sys2Proof.Laws
end

