-- ==== Sys2Proof/Tests/Slice0.lean ====
section
/-! SUPPORT. The model's own tests: ill-formed terms the checks refuse, words decoded from the spec's encoding of them,
one step of each command with the result a vector of spec/95_test_vectors.md gives, and for each statement with hypotheses
the states and operands that meet them. -/

namespace Sys2Proof.Tests

open Sys2Proof Sys2Proof.Machine

/-! ### Helpers -/

/-- A cycle with a command or none, a level and a tick, as a listing line presents it. -/
def cycle (i : Option Instr) (raw : Bool) (now : Nat) : PortIn := Line.ports ⟨i, some raw, some now⟩ raw now

/-- A cycle with a command, the button released. -/
def run (i : Instr) : PortIn := cycle (some i) true 0

/-- A cycle with no command. -/
def rest : PortIn := cycle none true 0

/-- A cycle with `rst = 1` beside a command. -/
def resetWith (i : Instr) : PortIn := { run i with rst := true }

/-- An UPDATE with its operands. -/
def update (raw : Bool) (now : Nat) : PortIn := cycle (some .update) raw now

/-- The reset state of the default block, with the ports of the next cycles. -/
def bench (xs : List PortIn) : State := { State.reset with inputs := xs }

/-- Parameters with short bit periods and a gap. -/
def small : Params := { Config.defaultParams with t0hCyc := 1, t1hCyc := 2, tbitCyc := 3, gapCyc := 2 }

/-- A block with the parameters `small`, with the ports of the next cycles. -/
def smallBench (xs : List PortIn) : State := { State.resetOf small with inputs := xs }

/-- The block `smallBench` in cycle c of bit b of a frame on pin 0. -/
def sending (b c : Nat) (xs : List PortIn) : State :=
  { smallBench xs with ph := .bits, bitcnt := b, cyc := c, shreg := 0x800000#24 }

/-- The block `smallBench` in cycle g of the gap. -/
def gapping (g : Nat) (xs : List PortIn) : State := { smallBench xs with ph := .gap, gapcnt := g }

/-- A button pressed since the tick `t`, the filter stable. -/
def pressedSince (t : Nat) (xs : List PortIn) : State := { bench xs with value := false, tEdge := t, tPress := t }

/-- A button pressed since the tick `t`, a release seen first at the tick `e`. -/
def releasing (t e : Nat) (xs : List PortIn) : State := { pressedSince t xs with unstable := true, tEdge := e }

/-- A host's choices: the resetting colour is P7's. -/
def colours : HostChoices := ⟨⟨10#8, 20#8, 30#8⟩, ⟨0#8, 0#8, 255#8⟩, ⟨0#8, 255#8, 0#8⟩, 1, true⟩

/-! ### What the well-formedness checks refuse -/

theorem test_wf_wbuf_index_3 : (Instr.wbuf 1#1 3#2 0xFF#8).wf = false := by decide

theorem test_wf_default_params : Config.defaultParams.wf = true ∧ small.wf = true := by decide

theorem test_wf_t0h_zero : Params.wf { Config.defaultParams with t0hCyc := 0 } = false := by decide

theorem test_wf_t0h_not_below_t1h : Params.wf { Config.defaultParams with t0hCyc := 16 } = false := by decide

theorem test_wf_t1h_not_below_tbit : Params.wf { Config.defaultParams with t1hCyc := 25 } = false := by decide

theorem test_wf_debounce_zero : Params.wf { Config.defaultParams with debounceMs := 0 } = false := by decide

theorem test_wf_debounce_half_range : Params.wf { Config.defaultParams with debounceMs := 2 ^ 31 } = false := by decide

theorem test_wf_long_zero : Params.wf { Config.defaultParams with longMs := 0 } = false := by decide

theorem test_wf_long_half_range : Params.wf { Config.defaultParams with longMs := 2 ^ 31 } = false := by decide

theorem test_wf_count_narrow : Params.wf { Config.defaultParams with cntW := 7 } = false := by decide

theorem test_wf_tick_narrow : Params.wf { Config.defaultParams with tickW := 11 } = false := by decide

/-- Not rising, no such byte, and a byte listed at its unlisted value. -/
theorem test_wf_memory : Memory.wf [(5, 1#8), (4, 1#8)] = false ∧ Memory.wf [(4, 1#8), (4, 1#8)] = false ∧
    Memory.wf [(3, 1#8)] = false ∧ Memory.wf [(8, 1#8)] = false ∧ Memory.wf [(0, 0#8)] = false := by decide

/-! ### Decoding, from spec/95_test_vectors.md part 2.1: the columns `v i p op` of its table -/

theorem test_decode_nop : decode (0b00000000#8 ++ 0b00#2 ++ 0b0#1 ++ 0b000#3) = .nop ∧
    decode 0b11111111111000#14 = .nop := by decide

theorem test_decode_wbuf : decode 0b00010100000001#14 = .wbuf 0#1 0#2 20#8 ∧
    decode 0b00001010010001#14 = .wbuf 0#1 1#2 10#8 ∧ decode 0b00011110100001#14 = .wbuf 0#1 2#2 30#8 ∧
    decode 0b11111111101001#14 = .wbuf 1#1 2#2 255#8 ∧ decode 0b10100101001001#14 = .wbuf 1#1 0#2 0xA5#8 := by decide

theorem test_decode_wbufRsvd : decode 0b00000000110001#14 = .wbufRsvd ∧
    decode 0b11111111111001#14 = .wbufRsvd := by decide

theorem test_decode_tx : decode 0b00000000000010#14 = .tx 0#1 ∧ decode 0b00000000001010#14 = .tx 1#1 ∧
    decode 0b10101010101010#14 = .tx 1#1 := by decide

theorem test_decode_update : decode 0b00000000000011#14 = .update ∧ decode 0x3FFB#14 = .update := by decide

theorem test_decode_rdValue : decode 0b00000000000100#14 = .rdValue := by decide

theorem test_decode_rdShort : decode 0b00000000000101#14 = .rdShort := by decide

theorem test_decode_rdLong : decode 0b00000000000110#14 = .rdLong := by decide

theorem test_decode_rdStatus : decode 0b00000000000111#14 = .rdStatus ∧ decode 0x3FFF#14 = .rdStatus := by decide

/-- The words of R59, encoded. -/
theorem test_encode : encode (.wbuf 0#1 1#2 10#8) = 0x0291#14 ∧ encode (.wbuf 1#1 2#2 255#8) = 0x3FE9#14 ∧
    encode (.tx 1#1) = 0x000A#14 ∧ encode .wbufRsvd = 0x0031#14 ∧ encode .update = 0x0003#14 := by decide

/-- Words on the table's numbering, and bytes that are no word. -/
theorem test_decode_table_word : decodeTableWord 14 0x0501 = some (.wbuf 0#1 0#2 20#8) ∧
    decodeTableWord 16 0x000A = some (.tx 1#1) ∧ decodeTableWord 8 0x31 = some .wbufRsvd ∧
    decodeTableWord 16 0x4000 = none := by decide

theorem test_decode_bytes_rejects : bytesOf 2 0x8001 = [0x01#8, 0x80#8] ∧
    (decodeBytes [0x01#8]).isOk = false ∧ (decodeBytes [0x01#8, 0x80#8]).isOk = false ∧
    (decodeBytes [0x01#8, 0x05#8]).isOk = true := by decide

/-! ### One step of each command -/

/-- R89: a NOP during a frame moves the engine's position and nothing else. -/
theorem test_nop_during_frame :
    (sending 4 1 [run .nop]).after 1 = { sending 4 2 [] with cycleNo := 1 } := by decide

/-- R61's example: `buf[0][1] = 0x0A`, no other byte written. -/
theorem test_wbuf_example :
    ((bench [run (.wbuf 0#1 1#2 10#8)]).after 1).mem = [(1, 0x0A#8)] := by decide

/-- P4 cycle 5: a write during a frame reaches the buffer and not the frame. -/
theorem test_wbuf_during_frame :
    let s := { sending 0 0 [run (.wbuf 0#1 0#2 1#8)] with mem := [(0, 0xFF#8), (2, 0x80#8)] }
    (s.after 1).mem = [(0, 1#8), (2, 0x80#8)] ∧ (s.after 1).shreg = 0x800000#24 ∧ (s.after 1).cyc = 1 := by decide

/-- V-F10: from reset the reserved form sets `ill` and writes no byte. -/
theorem test_wbufRsvd :
    let t := (bench [run .wbufRsvd]).after 1
    t.ill = true ∧ t.mem = [] ∧ t.ovr = false ∧ t.status = 0x11#8 := by decide

/-- R63's example: the frame 0x140A1E on pin 0. -/
theorem test_tx_example :
    let t := ({ bench [run (.tx 0#1)] with mem := [(0, 0x14#8), (1, 0x0A#8), (2, 0x1E#8)] }).after 1
    t.engine = ⟨0x140A1E#24, 0#1, .bits, 0, 0, 0⟩ ∧ t.ledPort = 0b01#2 := by decide

/-- V-F11: a TX in the last busy cycle, the last of the gap, is dropped. -/
theorem test_tx_in_last_busy_cycle :
    let t := (gapping 1 [run (.tx 1#1)]).after 1
    t.ovr = true ∧ t.ph = .idle ∧ t.sel = 0#1 := by decide

/-- V-D7: the press edge at tick 4, across the wrap of `tick_ms`. -/
theorem test_update_press_across_wrap :
    let t := ({ bench [update false 4] with unstable := true, tEdge := 0xFFFFFFFA }).after 1
    t.value = false ∧ t.unstable = false ∧ t.tEdge = 0xFFFFFFFA ∧ t.tPress = 4 := by decide

/-- V-G7: the late long-press event at the release edge. -/
theorem test_update_late_long_press :
    let t := (releasing 10 1001 [update true 1011]).after 1
    t.value = true ∧ t.longPending = true ∧ t.longFired = false ∧ t.shortCount = 0 := by decide

/-- R79's example: pressed and low answers 0x02. -/
theorem test_rdValue_pressed :
    ((pressedSince 210 [run .rdValue]).after 1).rspData = 0x02 := by decide

/-- V-G4: two presses are returned and cleared. -/
theorem test_rdShort_two :
    let t := ({ bench [run .rdShort] with shortCount := 2 }).after 1
    t.rspValid = true ∧ t.rspData = 2 ∧ t.shortCount = 0 := by decide

/-- P3 step 6: the event is returned and cleared, the latch stays. -/
theorem test_rdLong_event :
    let t := ({ pressedSince 210 [run .rdLong] with longFired := true, longPending := true }).after 1
    t.rspData = 1 ∧ t.longPending = false ∧ t.longFired = true := by decide

/-- V-ST10: the largest STATUS of the default polarity. -/
theorem test_rdStatus_largest :
    ((({ releasing 0 0 [run .rdStatus] with
      ph := .bits, ovr := true, ill := true, longFired := true, longPending := true, shortCount := 1 })).after 1).rspData =
      0xFE := by decide

/-- V-ST6: released, a frame in flight, `ill` set. -/
theorem test_rdStatus_ill_and_busy :
    ((({ bench [run .rdStatus] with ph := .bits, ill := true })).after 1).rspData = 0x15 := by decide

/-- V-X2: under reset the command is not executed and nothing responds. -/
theorem test_reset_beside_rdStatus :
    (sending 3 1 [resetWith .rdStatus]).after 1 = { smallBench [] with cycleNo := 1 } := by decide

/-- V-W1 and V-W2: the 25 cycles of a 1 and of a 0 on the pin of the frame. -/
theorem test_wire_symbols :
    let one (c : Nat) : State := { bench [] with ph := .bits, cyc := c, shreg := 0x800000#24 }
    let zero (c : Nat) : State := { bench [] with ph := .bits, cyc := c }
    (List.range 25).map (fun c => (one c).ledOut 0#1) = List.replicate 16 true ++ List.replicate 9 false ∧
    (List.range 25).map (fun c => (zero c).ledOut 0#1) = List.replicate 9 true ++ List.replicate 16 false ∧
    (List.range 25).map (fun c => (one c).ledOut 1#1) = List.replicate 25 false := by decide

/-! ### The host around the block -/

/-- V-F5: the bytes and words of `SETRGB_EXT 255, 0, 0`, from P7 cycles 4 to 7. -/
theorem test_setRgbExt_words :
    (listing true 0 (setRgbExt Config.defaultParams 255#8 0#8 0#8)).map PortIn.cmd = [0x0001#14, 0x3FD1#14, 0x0021#14, 0x0002#14] := by decide

/-- S4 and S5 of the spec's examples: `1,2`, `1,2,3,4` and `abc,1,2` fail, `no-comma` is discarded; and a field `1@2`
is no integer. -/
theorem test_serial_rejects :
    parseLine [49#8, 44#8, 50#8] = .parseFailure (.fieldCount 2) ∧
    parseLine [49#8, 44#8, 50#8, 44#8, 51#8, 44#8, 52#8] = .parseFailure (.fieldCount 4) ∧
    parseLine [97#8, 98#8, 99#8, 44#8, 49#8, 44#8, 50#8] = .parseFailure (.nonNumeric [97#8, 98#8, 99#8]) ∧
    parseLine [110#8, 111#8, 45#8, 99#8, 111#8, 109#8, 109#8, 97#8] = .discardedNoComma ∧
    parseLine [53#8, 44#8, 49#8, 64#8, 50#8, 44#8, 55#8] = .parseFailure (.nonNumeric [49#8, 64#8, 50#8]) := by decide

/-- `0o9`, `0b2`, `0dA` and `0xG` are integers in no base, so non-numeric fields; `0o7`, `0b1`, `0d9` and `0xF` are
spellings R101 leaves open. -/
theorem test_serial_bases :
    (∀ f ∈ [[48#8, 111#8, 57#8], [48#8, 98#8, 50#8], [48#8, 100#8, 65#8], [48#8, 120#8, 71#8]], isOddInteger f = false ∧
      parseLine (f ++ [44#8, 49#8, 44#8, 50#8]) = .parseFailure (.nonNumeric f)) ∧
    (∀ f ∈ [[48#8, 111#8, 55#8], [48#8, 98#8, 49#8], [48#8, 100#8, 57#8], [48#8, 120#8, 70#8]],
      isOddInteger f = true) := by decide

/-- A failed line is reported by a host with a debug channel, and nowhere by one without. -/
theorem test_serial_debug_channel :
    let w := HostSystem.start colours (smallBench [])
    let e : HostSeen := ⟨true, 5, [49#8, 44#8, 50#8, 10#8]⟩
    (w.serialStep colours e).reports = [.fieldCount 2] ∧
    (w.serialStep { colours with debugChannel := false } e).reports = [] := by decide

/-- S9: `300,0,0` is accepted as `255,0,0`; and S8: `10,20,30` ended by `\r`. -/
theorem test_serial_accepts :
    parseLine [51#8, 48#8, 48#8, 44#8, 48#8, 44#8, 48#8] = .ok ⟨255#8, 0#8, 0#8⟩ ∧
    (HostData.receive ⟨.black, none, [], true⟩ [49#8, 48#8, 44#8, 50#8, 48#8, 44#8, 51#8, 48#8, 13#8]).2 =
      [.ok ⟨10#8, 20#8, 30#8⟩] := by decide

/-- The line before a lone terminator is parsed also where text follows it: `1,2,3` and a terminator and `4`. -/
theorem test_serial_text_after :
    (HostData.receive ⟨.black, none, [49#8, 44#8], true⟩ [50#8, 44#8, 51#8, 10#8, 52#8]).2 =
      [.ok ⟨1#8, 2#8, 3#8⟩] := by decide

/-! ### Witnesses: for each statement with hypotheses, what meets them -/

/-- The invariant holds at the reset state of every admissible block, whatever the ports hold. -/
theorem inv_smallBench (xs : List PortIn) : Inv (smallBench xs) where
  params_wf := test_wf_default_params.2
  mem_wf := rfl
  engine_ok := ⟨rfl, rfl, rfl, rfl⟩
  tEdge_lt := Nat.two_pow_pos _
  tPress_lt := Nat.two_pow_pos _
  shortCount_lt := Nat.two_pow_pos _
  rspData_lt := Nat.two_pow_pos _
  rsp_quiet := fun _ => rfl
  fired_pressed := nofun

theorem inv_sending (b c : Nat) (xs : List PortIn) (hb : b < 24) (hc : c < 3) : Inv (sending b c xs) where
  params_wf := test_wf_default_params.2
  mem_wf := rfl
  engine_ok := ⟨hb, hc, rfl, by
    show 0x800000 % 2 ^ b = 0
    exact Nat.mod_eq_zero_of_dvd (Nat.pow_dvd_pow 2 (show b ≤ 23 by omega))⟩
  tEdge_lt := Nat.two_pow_pos _
  tPress_lt := Nat.two_pow_pos _
  shortCount_lt := Nat.two_pow_pos _
  rspData_lt := Nat.two_pow_pos _
  rsp_quiet := fun _ => rfl
  fired_pressed := nofun

theorem inv_gapping (g : Nat) (xs : List PortIn) (hg : g < 2) : Inv (gapping g xs) where
  params_wf := test_wf_default_params.2
  mem_wf := rfl
  engine_ok := ⟨rfl, rfl, rfl, hg⟩
  tEdge_lt := Nat.two_pow_pos _
  tPress_lt := Nat.two_pow_pos _
  shortCount_lt := Nat.two_pow_pos _
  rspData_lt := Nat.two_pow_pos _
  rsp_quiet := fun _ => rfl
  fired_pressed := nofun

theorem witness_DecodeEncodeRoundTrip : (Instr.wbuf 1#1 2#2 0xFF#8).wf = true ∧ (Instr.wbuf 0#1 0#2 0#8).wf = true ∧
    (Instr.tx 1#1).wf = true ∧ Instr.wbufRsvd.wf = true := by decide

/-- Both cases of a cycle without reset, and one with. -/
theorem witness_CommandWordFormat :
    ((bench [run .update]).input.rst = false ∧ (bench [run .update]).input.cmdValid = true) ∧
    ((bench [rest]).input.rst = false ∧ (bench [rest]).input.cmdValid = false) ∧
    (bench [resetWith (.tx 0#1)]).input.rst = true := by decide

theorem witness_StepRunsDecodedCommand :
    (bench [resetWith .nop]).input.rst = true ∧
    ((bench [run (.tx 1#1)]).input.rst = false ∧ (bench [run (.tx 1#1)]).input.cmdValid = true) ∧
    (bench [rest]).input.cmdValid = false ∧ (sending 0 0 []).ph ≠ .idle ∧ (bench []).ph = .idle := by decide

theorem witness_UnusedFieldsIgnored :
    (0x000A#14 &&& usedMask (decode 0x000A#14) = 0x2AAA#14 &&& usedMask (decode 0x000A#14)) ∧
    (0x0031#14 &&& usedMask (decode 0x0031#14) = 0x3FF9#14 &&& usedMask (decode 0x0031#14)) := by decide

theorem witness_FetchWordIsRunNext : decodeTableWord 16 0x3FE9 = some (.wbuf 1#1 2#2 255#8) ∧
    decodeTableWord 14 0x3FFF = some .rdStatus := by decide

/-- Of the words of NOP the one with every unused bit set. -/
theorem witness_NopLikeNoCommand :
    let x : PortIn := { run .nop with cmd := 0x3FF8#14 }
    x.rst = false ∧ rest.rst = false ∧ x.cmdValid = true ∧ decode x.cmd = .nop ∧ rest.cmdValid = false := by decide

/-- Two cycles that differ in every port not sampled, with and without UPDATE. -/
theorem witness_UnsampledPortsDoNotMatter :
    let s := bench []
    ((s.present (cycle (some (.tx 0#1)) true 1)).command = (s.present (cycle (some (.tx 0#1)) false 2)).command ∧
      (s.present (cycle (some (.tx 0#1)) true 1)).command ≠ some .update) ∧
    ((s.present (update true 5)).command = (s.present (update true (5 + 2 ^ 32))).command ∧
      (s.present (update true 5)).command = some .update ∧
      (update true 5).tickMs % 2 ^ s.params.tickW = (update true (5 + 2 ^ 32)).tickMs % 2 ^ s.params.tickW) := by decide

/-- Every command can be the command of a cycle. -/
theorem witness_ResponsePort :
    ∀ i ∈ [Instr.nop, .wbufRsvd, .wbuf 1#1 2#2 7#8, .tx 1#1, .update, .rdValue, .rdShort, .rdLong, .rdStatus],
      (bench [run i]).command = some i ∧ (bench [run i]).input.rst = false := by decide

theorem witness_WbufWritesOneByte : Memory.wf [(0, 1#8), (6, 0xFF#8)] = true ∧ (0#2 ≠ 3#2) ∧ (2#2 ≠ 3#2) ∧
    bufAddr 0#1 0#2 = 0 ∧ bufAddr 1#1 2#2 = 6 := by decide

theorem witness_BufferChangesByWbufOnly :
    (bench [run .wbufRsvd]).input.rst = false ∧ ∀ p i v, (bench [run .wbufRsvd]).command ≠ some (.wbuf p i v) := by
  refine ⟨by decide, fun p i v => ?_⟩
  rw [show (bench [run .wbufRsvd]).command = some .wbufRsvd by decide]
  exact nofun

/-- Idle, with a frame to load. -/
theorem witness_TxStartsFrame :
    ({ bench [] with mem := [(0, 0xFF#8), (6, 1#8)] } : State).ph = .idle ∧ (bench []).params.wf = true := by decide

/-- Idle, and the first and the last bit of a frame. -/
theorem witness_WireBitOrder :
    ({ bench [] with mem := [(0, 0x80#8), (2, 1#8)] } : State).ph = .idle ∧ 0 < Config.frameBits ∧
    23 < Config.frameBits := by decide

/-- BITS and GAP, the last busy cycle of each among them. -/
theorem witness_TxWhileBusyIsDropped :
    (sending 0 0 []).ph ≠ .idle ∧ (sending 23 2 []).ph ≠ .idle ∧ (gapping 1 []).ph ≠ .idle ∧
    (run (.tx 1#1)).rst = false ∧ (run (.tx 1#1)).cmdValid = true ∧ decode (run (.tx 1#1)).cmd = .tx 1#1 := by decide

/-- One state for each clause, at the ends of its range. -/
theorem witness_EngineStepOfCycle :
    (Inv (gapping 0 [resetWith .nop]) ∧ (gapping 0 [resetWith .nop]).input.rst = true) ∧
    (Inv (smallBench [run .update]) ∧ (smallBench [run .update]).ph = .idle ∧
      ∀ p, (smallBench [run .update]).command ≠ some (.tx p)) ∧
    (Inv (smallBench [run (.tx 1#1)]) ∧ (smallBench [run (.tx 1#1)]).command = some (.tx 1#1)) ∧
    (Inv (sending 0 0 [rest]) ∧ (sending 0 0 [rest]).cyc ≠ small.tbitCyc - 1) ∧
    (Inv (sending 22 2 [rest]) ∧ (sending 22 2 [rest]).cyc = small.tbitCyc - 1 ∧ (sending 22 2 [rest]).bitcnt ≠ 23) ∧
    (Inv (sending 23 2 [rest]) ∧ (sending 23 2 [rest]).cyc = small.tbitCyc - 1 ∧ (sending 23 2 [rest]).bitcnt = 23) ∧
    (Inv (gapping 1 [rest]) ∧ (gapping 1 [rest]).gapcnt = small.gapCyc - 1) ∧
    (Inv (gapping 0 [rest]) ∧ (gapping 0 [rest]).gapcnt ≠ small.gapCyc - 1) :=
  ⟨⟨inv_gapping 0 _ (by decide), by decide⟩, ⟨inv_smallBench _, rfl, by decide⟩, ⟨inv_smallBench _, by decide⟩, ⟨inv_sending 0 0 _ (by decide) (by decide), by decide⟩,
    ⟨inv_sending 22 2 _ (by decide) (by decide), by decide⟩, ⟨inv_sending 23 2 _ (by decide) (by decide), by decide⟩,
    ⟨inv_gapping 1 _ (by decide), by decide⟩, ⟨inv_gapping 0 _ (by decide), by decide⟩⟩

/-- The four events that change the phase. -/
theorem witness_PhaseChangesOnlyBy :
    (Inv (sending 5 1 [resetWith .nop]) ∧ ((sending 5 1 [resetWith .nop]).after 1).ph = .idle) ∧
    (Inv (smallBench [run (.tx 0#1)]) ∧ ((smallBench [run (.tx 0#1)]).after 1).ph = .bits) ∧
    (Inv (sending 23 2 [rest]) ∧ ((sending 23 2 [rest]).after 1).ph = .gap) ∧
    (Inv (gapping 1 [rest]) ∧ ((gapping 1 [rest]).after 1).ph = .idle) :=
  ⟨⟨inv_sending 5 1 _ (by decide) (by decide), by decide⟩, ⟨inv_smallBench _, by decide⟩,
    ⟨inv_sending 23 2 _ (by decide) (by decide), by decide⟩, ⟨inv_gapping 1 _ (by decide), by decide⟩⟩

theorem witness_OutputsOfState : (1#1 ≠ (sending 0 0 []).sel) ∧ (gapping 0 []).ph ≠ .bits ∧
    (sending 0 0 []).ledOut 0#1 = true := by decide

/-- A run without reset: idle cycles after the first one. -/
theorem noReset_idle (x : PortIn) (n : Nat) (h : x.rst = false) :
    (smallBench (x :: List.replicate n rest)).noReset (n + 1) := by
  intro k hk
  cases k with
  | zero => simpa [State.inputAt, smallBench] using h
  | succ k =>
    have hk' : k < n := by omega
    simp only [State.inputAt, smallBench, List.getElem?_cons_succ, List.getElem?_replicate, hk', if_true]
    decide

/-- The first and the last cycle of a frame, d = 1 and d = 72. -/
theorem witness_FrameClosedForm :
    let s := smallBench (run (.tx 1#1) :: List.replicate 74 rest)
    Inv s ∧ s.ph = .idle ∧ s.command = some (.tx 1#1) ∧
      ∀ d ∈ [1, 72], 1 ≤ d ∧ d ≤ Config.frameBits * s.params.tbitCyc ∧ s.noReset d :=
  ⟨inv_smallBench _, rfl, by decide, fun d hd => ⟨by simp at hd; omega, by
    show d ≤ 24 * 3
    simp at hd; omega, fun k hk => noReset_idle _ 74 (by decide) k (by simp at hd; omega)⟩⟩

/-- An accepted TX followed by a frame, its gap, and one cycle more. -/
theorem witness_FrameLength :
    let s := smallBench (run (.tx 1#1) :: List.replicate 74 rest)
    Inv s ∧ s.ph = .idle ∧ s.command = some (.tx 1#1) ∧
      s.noReset (Config.frameBits * s.params.tbitCyc + s.params.gapCyc + 1) :=
  ⟨inv_smallBench _, rfl, by decide, noReset_idle _ 74 (by decide)⟩

/-- Two states with the same engine, other detectors, other commands. -/
theorem witness_FrameInFlightUndisturbed :
    let s := sending 23 2 [rest, rest, rest]
    let u := { sending 23 2 [run .update, run (.tx 1#1), run .wbufRsvd] with value := false, ovr := true }
    s.engine = u.engine ∧ s.params = u.params ∧ s.noReset 3 ∧ u.noReset 3 ∧ ∀ k < 3, (s.after k).busy = true := by
  unfold State.noReset; decide

/-- The last cycle of a frame, with its gap to come. -/
theorem witness_BusyEndsInTime :
    let s := sending 23 2 [run .nop, run (.tx 0#1), rest]
    Inv s ∧ s.busyCycles = 3 ∧ s.noReset s.busyCycles :=
  ⟨inv_sending 23 2 _ (by decide) (by decide), by decide, by unfold State.noReset; decide⟩

theorem witness_FaultBitsExactly :
    (gapping 0 [run (.tx 0#1)]).input.rst = false ∧ (gapping 0 [resetWith (.tx 0#1)]).input.rst = true := by decide

theorem witness_FaultingCommandIsDropped :
    (bench [run .rdLong]).command ≠ some .rdStatus ∧
    (run .wbufRsvd).rst = false ∧ (run .wbufRsvd).cmdValid = true ∧ decode (run .wbufRsvd).cmd = .wbufRsvd ∧
    decode (run (.tx 0#1)).cmd = .tx 0#1 ∧ (gapping 0 []).busy = true := by decide

/-- Two dutiful cycles: a TX while idle, then a WBUF while busy. -/
theorem witness_DutifulHostStaysSafe :
    let s := bench [run (.tx 0#1), run (.wbuf 0#1 0#2 1#8)]
    s.safe ∧ ∀ k < 2, (s.after k).dutiful := by
  unfold State.safe State.dutiful; decide

/-- The five cases of the stage: stable and unstable, the old level and another, the window met exactly and short by one. -/
theorem witness_DebounceStageOfUpdate :
    let other := bench [update false 200]
    let same := bench [update true 200]
    let back := { same with unstable := true }
    let waits := { bench [update false 209] with unstable := true, tEdge := 200 }
    let accepts := { bench [update false 210] with unstable := true, tEdge := 200 }
    (other.unstable = false ∧ other.input.btnRaw ≠ other.value) ∧ (same.unstable = false ∧ same.input.btnRaw = same.value) ∧
    (back.unstable = true ∧ back.input.btnRaw = back.value) ∧
    (waits.unstable = true ∧ waits.input.btnRaw ≠ waits.value ∧
      tickDiff waits.params (waits.input.tickMs % 2 ^ waits.params.tickW) waits.tEdge = 9) ∧
    (accepts.unstable = true ∧ accepts.input.btnRaw ≠ accepts.value ∧
      tickDiff accepts.params (accepts.input.tickMs % 2 ^ accepts.params.tickW) accepts.tEdge = 10) := by decide

theorem witness_ValueChangesOnlyAfterWindow :
    let s := { bench [update false 210] with unstable := true, tEdge := 200 }
    s.input.rst = false ∧ (s.after 1).value ≠ s.value := by decide

/-- The two reads that take something from the detector, and a cycle that takes nothing. -/
theorem witness_DetectorMovesByUpdateOnly :
    ∀ x ∈ [run .rdLong, run .rdShort, rest],
      (bench [x]).input.rst = false ∧ (bench [x]).command ≠ some .update := by decide

/-- V-D2 of the spec: a low pulse from tick 101 to 109. -/
theorem witness_ShortPulseNeverRegisters :
    let s := bench [update false 101, rest, update false 105, update true 109]
    s.unstable = false ∧ s.noReset (3 + 1) ∧
    (∀ k < 3, (s.after k).command = some .update →
      (s.after k).raw ≠ s.value ∧ tickDiff s.params (s.after k).now 101 < s.params.debounceMs) ∧
    (∀ k < 3, (s.after k).command = some .update → (∀ j < k, (s.after j).command ≠ some .update) → (s.after k).now = 101) ∧
    (s.after 3).command = some .update ∧ (s.after 3).raw = s.value := by
  unfold State.noReset; decide

theorem witness_RestartingFilterAgrees : 1 ≤ Config.defaultParams.debounceMs := by decide

/-- The branches of the stage: a press edge; a release edge that is late, short at exactly `LONG_MS`, and of a press
already long; the event on a held press; and the three reasons for nothing. -/
theorem witness_GestureStageOfUpdate :
    let press := { bench [update false 210] with unstable := true, tEdge := 200 }
    let late := releasing 10 1001 [update true 1011]
    let short := releasing 10 1000 [update true 1010]
    let fired := { releasing 10 2000 [update true 2010] with longFired := true }
    let held := pressedSince 210 [update false 1211]
    let released := bench [update true 5000]
    let again := { held with longFired := true }
    let early := pressedSince 210 [update false 1210]
    ((press.after 1).value ≠ press.value ∧ (press.after 1).value = press.params.pressedLevel) ∧
    ((late.after 1).value ≠ late.value ∧ late.longFired = false ∧ tickDiff late.params late.now late.tPress = 1001) ∧
    ((short.after 1).value ≠ short.value ∧ short.longFired = false ∧ tickDiff short.params short.now short.tPress = 1000) ∧
    ((fired.after 1).value ≠ fired.value ∧ fired.longFired = true) ∧
    ((held.after 1).value = held.value ∧ held.longFired = false ∧ tickDiff held.params held.now held.tPress = 1001) ∧
    ((released.after 1).value = released.value ∧ (released.after 1).value ≠ released.params.pressedLevel) ∧
    ((again.after 1).value = again.value ∧ again.longFired = true) ∧
    ((early.after 1).value = early.value ∧ tickDiff early.params early.now early.tPress = 1000) := by decide

/-- V-G1: the UPDATE at held = 1000 does not find a long press, the one at 1001 does and fires, the next does not again. -/
theorem witness_LongPressFiresOnce :
    let s := pressedSince 210 [update false 1210, update false 1211, update false 3000]
    s.longFired = false ∧ s.noReset 3 ∧ (∀ k < 3, (s.after k).pressed = true) ∧
    ¬(s.after 0).fires ∧ (s.after 1).fires ∧ (s.after 2).findsLong := by
  unfold State.noReset State.fires State.findsLong; decide

/-- A press that fires at its release edge, and one that is short, one tick apart (P6 and P6b of the spec). -/
theorem witness_EveryPressShortOrLong :
    let late := releasing 10 1001 [update true 1010, update true 1011]
    let short := releasing 10 1000 [rest, update true 1010]
    ∀ s ∈ [late, short], s.pressed = true ∧ s.longFired = false ∧ s.noReset 2 ∧ (∀ k < 2, (s.after k).pressed = true) ∧
      (∀ k < 2, (s.after k).command ≠ some .rdShort) ∧ (s.after 2).pressed = false ∧
      ((s.after 1).fires ↔ s = late) := by
  unfold State.noReset State.fires State.findsLong; decide

/-- V-G6: an event left unread over a release, and the release itself. -/
theorem witness_UnreadEventSurvives :
    let s := { releasing 10 1100 [update true 1110, run .rdStatus] with longFired := true, longPending := true }
    s.longPending = true ∧ s.noReset 2 ∧ (∀ k < 2, (s.after k).command ≠ some .rdLong) ∧
    (s.after 1).value ≠ s.value := by
  unfold State.noReset; decide

theorem witness_RdLongReturnsAndClears :
    ({ pressedSince 210 [] with longFired := true, longPending := true } : State).longFired = true := by decide

theorem witness_ShortCountSaturates :
    ({ bench [] with shortCount := 255 } : State).shortCount = 2 ^ Config.defaultParams.cntW - 1 := by decide

theorem witness_ResetKeepsInvariant : small.wf = true ∧ Config.defaultParams.wf = true := by decide

theorem witness_DefaultWireDurations : Config.defaultParams.exact = true := by decide

theorem witness_StatusNeverAllOnes :
    let s := sending 23 2 []
    Inv s ∧ s.params.pressedLevel = false := ⟨inv_sending 23 2 _ (by decide) (by decide), rfl⟩

theorem witness_ResetSetsEveryRegister :
    (releasing 10 1001 [resetWith .rdStatus]).input.rst = true := by decide

/-- An UPDATE, and the last cycle of a frame. -/
theorem witness_StepKeepsInvariant :
    (Inv (smallBench [update false 5]) ∧ step (smallBench [update false 5]) = .next ((smallBench [update false 5]).after 1)) ∧
    (Inv (sending 23 2 [rest]) ∧ step (sending 23 2 [rest]) = .next ((sending 23 2 [rest]).after 1)) :=
  ⟨⟨inv_smallBench _, rfl⟩, ⟨inv_sending 23 2 _ (by decide) (by decide), rfl⟩⟩

theorem witness_TickDifferenceAcrossWrap :
    let P := Config.defaultParams
    0xFFFFFFFA < 2 ^ P.tickW ∧ 10 < 2 ^ P.tickW ∧ (0xFFFFFFFA + 10) % 2 ^ P.tickW = 4 ∧
    2 ^ P.tickW - 1 < 2 ^ P.tickW := by decide

theorem witness_TransmitSendsThreeBytes :
    let s := smallBench (listing true 0 (transmit 0#1 20#8 10#8 30#8) ++ [rest])
    Inv s ∧ s.ph = .idle ∧ s.inputs = listing true 0 (transmit 0#1 20#8 10#8 30#8) ++ [rest] :=
  ⟨inv_smallBench _, rfl, rfl⟩

/-- A poll 2000 ms after the second trigger and one at 2001 ms, both in range. -/
theorem witness_ResetPulseRestarts :
    2001 < 2 ^ Config.defaultParams.tickW ∧ 1000 < 2 ^ Config.defaultParams.tickW := by decide

/-- `-1000,20,1000` and a terminator, from an empty line buffer. -/
theorem witness_SerialTripleIsClamped :
    (HostData.startup colours).lineBuf = [] ∧
    ∀ d ∈ [[1, 0, 0, 0], [2, 0], [1, 0, 0, 0]], d ≠ [] ∧ ∀ x ∈ d, x < 10 := by decide

/-- No comma; one comma; three fields of which one has no digit, of which one holds `@`, and of which one is `0o9` or
`0b2`. -/
theorem witness_BadLineIsDiscarded :
    (∀ c ∈ [110#8, 111#8], c ≠ 10#8 ∧ c ≠ 13#8 ∧ c ≠ 44#8) ∧
    (44#8 ∈ [49#8, 44#8, 50#8] ∧ [49#8, 44#8, 50#8].count 44#8 ≠ 2) ∧
    (∀ c ∈ [97#8, 98#8, 99#8], isDigit c = false) ∧
    (64#8 ∈ [49#8, 64#8, 50#8] ∧ isHexDigit 64#8 = false ∧ isBaseLetter 64#8 = false ∧ isBlank 64#8 = false) ∧
    (∃ ds d, [48#8, 111#8, 57#8] = 48#8 :: 111#8 :: ds ∧ d ∈ ds ∧ isBlank d = false ∧ 55 < d.toNat) ∧
    (∃ ds d, [48#8, 98#8, 50#8] = 48#8 :: 98#8 :: ds ∧ d ∈ ds ∧ isBlank d = false ∧ 49 < d.toNat) :=
  ⟨by decide, by decide, by decide, by decide, ⟨_, 57#8, rfl, by decide⟩, ⟨_, 50#8, rfl, by decide⟩⟩

theorem witness_HostLoopNeverOverruns :
    let w := HostSystem.start colours (smallBench [])
    Inv w.block ∧ w.block.ph = .idle ∧ w.block.safe := ⟨inv_smallBench _, rfl, rfl, rfl⟩

theorem witness_IterationShowsColour :
    let w := HostSystem.start colours (smallBench [])
    Inv w.block ∧ w.block.ph = .idle ∧ w.block.params.pinExt ≠ w.block.params.pinOnb ∧
      (w.sample ⟨true, 5, []⟩).block.longPending = false :=
  ⟨inv_smallBench _, rfl, by decide, by decide⟩

/-- The invariant with a pressed button: P7's state before its sample. -/
theorem inv_held : Inv { smallBench [] with value := false, tEdge := 5000, tPress := 5010 } where
  params_wf := test_wf_default_params.2
  mem_wf := rfl
  engine_ok := ⟨rfl, rfl, rfl, rfl⟩
  tEdge_lt := by decide
  tPress_lt := by decide
  shortCount_lt := Nat.two_pow_pos _
  rspData_lt := Nat.two_pow_pos _
  rsp_quiet := fun _ => rfl
  fired_pressed := nofun

theorem witness_LongPressIteration :
    let w := HostSystem.start colours { smallBench [] with value := false, tEdge := 5000, tPress := 5010 }
    let e : HostSeen := ⟨false, 6011, [49#8]⟩
    Inv w.block ∧ w.block.ph = .idle ∧ w.block.params.pinExt ≠ w.block.params.pinOnb ∧
      (w.sample e).block.longPending = true ∧ acceptedColour (w.host.receive e.bytes).2 = none :=
  ⟨inv_held, rfl, by decide, by decide, by decide⟩

end Sys2Proof.Tests
end

section
/-! PROOFS. The tick difference across a wrap (spec/00_scope.md R10, spec/70_reset_and_hazards.md R130): it is the only
number below `2^TICK_W` which, added to the earlier tick, gives the later one modulo `2^TICK_W`. -/

namespace Sys2Proof.Machine

variable {P : Params} {a b d : Nat}

/-- What pins the difference: of a range below `2^TICK_W`, only one number leads from `b` to `a`. -/
theorem tickDiff_eq_of_modEq (hd : d < 2 ^ P.tickW) (h : b + d ≡ a [MOD 2 ^ P.tickW]) : tickDiff P a b = d := by
  have hsub : (d : Int) ≡ (a : Int) - b [ZMOD ((2 ^ P.tickW : Nat) : Int)] := by
    have hsum : ((b + d : Nat) : Int) ≡ a [ZMOD ((2 ^ P.tickW : Nat) : Int)] := Int.natCast_modEq_iff.mpr h
    simpa using hsum.sub_right (b : Int)
  have hdiff : (tickDiff P a b : Int) = d := calc
    (tickDiff P a b : Int) = ((a : Int) - b) % ((2 ^ P.tickW : Nat) : Int) := tickDiff_eq P a b
    _ = (d : Int) % ((2 ^ P.tickW : Nat) : Int) := hsub.symm
    _ = d := by rw [← Int.natCast_mod, Nat.mod_eq_of_lt hd]
  exact_mod_cast hdiff

/-- `d` milliseconds after any tick, wrapped or not, the difference is `d`. -/
theorem tickDiff_add_mod (hd : d < 2 ^ P.tickW) : tickDiff P ((b + d) % 2 ^ P.tickW) b = d :=
  tickDiff_eq_of_modEq hd (Nat.mod_modEq _ _).symm

theorem tickDiff_of_le (ha : a < 2 ^ P.tickW) (h : b ≤ a) : tickDiff P a b = a - b :=
  tickDiff_eq_of_modEq (Nat.sub_lt_of_lt ha) (by rw [Nat.add_sub_cancel' h])

/-- A tick smaller than the earlier one has wrapped once. -/
theorem tickDiff_of_lt (hb : b < 2 ^ P.tickW) (h : a < b) : tickDiff P a b = 2 ^ P.tickW - (b - a) := by
  have hwrap : b + (2 ^ P.tickW - (b - a)) = a + 2 ^ P.tickW := by omega
  refine tickDiff_eq_of_modEq (by omega) ?_
  rw [hwrap]
  exact Nat.add_mod_right a _

/-- Settles O50: both ticks in range, the difference is the one number that `tickDiff_eq_of_modEq` pins. -/
theorem tickDifferenceAcrossWrap : Obligations.TickDifferenceAcrossWrap := by
  intro P b d hb hd
  refine ⟨tickDiff_add_mod hd, fun a ha => ?_⟩
  split
  case isTrue h => exact tickDiff_of_le ha h
  case isFalse h => exact tickDiff_of_lt hb (Nat.lt_of_not_le h)

end Sys2Proof.Machine
end

section
/-! PROOFS. The state: its reset values (spec/10_state.md R34), the invariant that every cycle keeps, and which register
changes by what. The lemmas about the detector's second stage, the commands and the engine say first what each can do to
the state; the invariant is then kept operation by operation. -/

namespace Sys2Proof

/-! ### Parameters (R8, R30) -/

theorem Params.wf_iff {P : Params} :
    P.wf = true ↔ 0 < P.t0hCyc ∧ P.t0hCyc < P.t1hCyc ∧ P.t1hCyc < P.tbitCyc ∧ 1 ≤ P.debounceMs ∧
      P.debounceMs < 2 ^ (P.tickW - 1) ∧ 1 ≤ P.longMs ∧ P.longMs < 2 ^ (P.tickW - 1) ∧ 8 ≤ P.cntW ∧ 12 ≤ P.tickW := by
  simp [Params.wf, and_assoc]

theorem Params.tbitCyc_pos {P : Params} (h : P.wf = true) : 0 < P.tbitCyc := by
  obtain ⟨_, _, _, -⟩ := Params.wf_iff.1 h
  omega

/-- A byte fits the response port (R92). -/
theorem Params.byte_le_count {P : Params} (h : P.wf = true) : 2 ^ 8 ≤ 2 ^ P.cntW := by
  obtain ⟨-, -, -, -, -, -, -, hc, -⟩ := Params.wf_iff.1 h
  exact Nat.pow_le_pow_right (by decide) hc

end Sys2Proof

namespace Sys2Proof.Machine

@[simp] theorem State.after_params (s : State) (n : Nat) : (s.after n).params = s.params := by
  induction n with
  | zero => rfl
  | succ n ih => exact (step_after s n).2.1.trans ih

/-- Settles O49, by induction on the number of cycles. -/
theorem parametersNeverChange : Obligations.ParametersNeverChange := State.after_params

/-! ### Flags and outputs -/

/-- Outside BITS both outputs are low (R66). -/
theorem State.ledOut_of_ne_bits {s : State} (h : s.ph ≠ .bits) (q : Pin) : s.ledOut q = false := by
  simp [State.ledOut, h]

theorem State.ledPort_of_ne_bits {s : State} (h : s.ph ≠ .bits) : s.ledPort = 0#2 := by
  rw [State.ledPort, State.ledOut_of_ne_bits h, State.ledOut_of_ne_bits h]
  rfl

theorem State.readBuf_of_nil {s : State} (h : s.mem = []) (p : Pin) (i : ByteIdx) : s.readBuf p i = 0x00#8 := by
  rw [State.readBuf, h]
  rfl

theorem State.status_bit_value (s : State) : s.status.getLsbD 0 = s.value := by
  simp only [State.status, BitVec.getLsbD_append]
  simp

theorem State.status_bit_longFired (s : State) : s.status.getLsbD 5 = s.longFired := by
  simp only [State.status, BitVec.getLsbD_append]
  simp

/-- Settles O44: in 0xFF the bits `long_fired` and `value` are both 1, but a long press is active at the pressed level
only. -/
theorem statusNeverAllOnes : Obligations.StatusNeverAllOnes := by
  intro s hs hlow
  refine ⟨_, exec_rdStatus s, fun hff => ?_⟩
  have hall : s.status = 0xFF#8 := BitVec.eq_of_toNat_eq hff
  have hvalue : s.value = true := by rw [← s.status_bit_value, hall]; decide
  have hfired : s.longFired = true := by rw [← s.status_bit_longFired, hall]; decide
  have hpressed := hs.fired_pressed hfired
  simp [State.pressed, hvalue, hlow] at hpressed

/-! ### UPDATE (R74, R75, R82) -/

theorem State.now_lt (s : State) : s.now < 2 ^ s.params.tickW := Nat.mod_lt _ (Nat.two_pow_pos _)

/-- A tick register holds a tick: the old one, or this cycle's. -/
theorem State.debounce_tEdge (s : State) : s.debounce.tEdge = s.tEdge ∨ s.debounce.tEdge = s.now := by
  rcases debounceStage_cases s.params s.value s.unstable s.tEdge s.raw s.now with
    ⟨-, h⟩ | ⟨-, -, h⟩ | ⟨-, -, -, h⟩ | ⟨-, -, -, h⟩ <;> simp [State.debounce, h]

/-- The stable value changes only where the window has passed (R75). -/
theorem State.debounce_value_changes {s : State} (h : s.debounce.value ≠ s.value) :
    s.unstable = true ∧ s.debounce.value = s.raw ∧ s.params.debounceMs ≤ tickDiff s.params s.now s.tEdge := by
  rw [State.debounce] at h ⊢
  rcases debounceStage_cases s.params s.value s.unstable s.tEdge s.raw s.now with
    ⟨-, hd⟩ | ⟨-, -, hd⟩ | ⟨-, hu, hw, hd⟩ | ⟨-, -, -, hd⟩
  · simp [hd] at h
  · simp [hd] at h
  · exact ⟨hu, by rw [hd], hw⟩
  · simp [hd] at h

theorem State.debounce_value_of_no_edge {s : State} (h : s.debounce.edge = false) : s.debounce.value = s.value := by
  by_contra hne
  have hedge : s.debounce.edge = true := (debounceStage_edge_iff ..).2 hne
  simp [h] at hedge

/-- Everything the gesture stage can do (R82). -/
theorem gestureStage_cases (P : Params) (v e : Bool) (t : Nat) (f p : Bool) (c now : Nat) :
    (e = true ∧ v = P.pressedLevel ∧ gestureStage P v e t f p c now = ⟨now, false, p, c⟩) ∨
    (e = true ∧ v ≠ P.pressedLevel ∧ f = false ∧ P.longMs < tickDiff P now t ∧
      gestureStage P v e t f p c now = ⟨t, false, true, c⟩) ∨
    (e = true ∧ v ≠ P.pressedLevel ∧ f = false ∧ tickDiff P now t ≤ P.longMs ∧
      gestureStage P v e t f p c now = ⟨t, false, p, satInc P c⟩) ∨
    (e = true ∧ v ≠ P.pressedLevel ∧ f = true ∧ gestureStage P v e t f p c now = ⟨t, false, p, c⟩) ∨
    (e = false ∧ v = P.pressedLevel ∧ f = false ∧ P.longMs < tickDiff P now t ∧
      gestureStage P v e t f p c now = ⟨t, true, true, c⟩) ∨
    (e = false ∧ (v ≠ P.pressedLevel ∨ f = true ∨ tickDiff P now t ≤ P.longMs) ∧
      gestureStage P v e t f p c now = ⟨t, f, p, c⟩) := by
  cases e with
  | true =>
    by_cases hv : v = P.pressedLevel
    · exact .inl ⟨rfl, hv, gestureStage_press P t f p c now hv⟩
    · cases f with
      | true => exact .inr (.inr (.inr (.inl ⟨rfl, hv, rfl, gestureStage_release_fired P t p c now hv⟩)))
      | false =>
        rcases Nat.lt_or_ge P.longMs (tickDiff P now t) with hl | hl
        · exact .inr (.inl ⟨rfl, hv, rfl, hl, gestureStage_release_late p c hv hl⟩)
        · exact .inr (.inr (.inl ⟨rfl, hv, rfl, hl, gestureStage_release_short p c hv hl⟩))
  | false =>
    by_cases hfires : v = P.pressedLevel ∧ f = false ∧ P.longMs < tickDiff P now t
    · obtain ⟨hv, rfl, hl⟩ := hfires
      exact .inr (.inr (.inr (.inr (.inl ⟨rfl, hv, rfl, hl, gestureStage_fires p c hv hl⟩))))
    · have hrests : v ≠ P.pressedLevel ∨ f = true ∨ tickDiff P now t ≤ P.longMs := by
        by_contra hno
        simp only [not_or, ne_eq, not_not, not_le, Bool.not_eq_true] at hno
        exact hfires hno
      exact .inr (.inr (.inr (.inr (.inr ⟨rfl, hrests, gestureStage_rests p c hrests⟩))))

/-- What an UPDATE does to the registers of the gesture stage, as far as their widths and the long press go. -/
theorem State.gesture_cases (s : State) :
    (s.gesture.tPress = s.tPress ∨ s.gesture.tPress = s.now) ∧
    (s.gesture.shortCount = s.shortCount ∨ s.gesture.shortCount = satInc s.params s.shortCount) ∧
    (s.gesture.longFired = true →
      s.debounce.value = s.params.pressedLevel ∨ (s.debounce.edge = false ∧ s.longFired = true)) := by
  rw [State.gesture]
  rcases gestureStage_cases s.params s.debounce.value s.debounce.edge s.tPress s.longFired s.longPending s.shortCount
    s.now with ⟨-, hv, h⟩ | ⟨-, -, -, -, h⟩ | ⟨-, -, -, -, h⟩ | ⟨-, -, -, h⟩ | ⟨-, hv, -, -, h⟩ | ⟨he, -, h⟩
  all_goals rw [h]
  case inr.inr.inr.inr.inl => simp [hv]
  case inr.inr.inr.inr.inr => exact ⟨.inl rfl, .inl rfl, fun hf => .inr ⟨he, hf⟩⟩
  all_goals simp

theorem satInc_cases (P : Params) (v : Nat) :
    (v < 2 ^ P.cntW - 1 ∧ satInc P v = v + 1) ∨ (2 ^ P.cntW - 1 ≤ v ∧ satInc P v = v) := by
  rcases Nat.lt_or_ge v (2 ^ P.cntW - 1) with h | h
  · exact .inl ⟨h, if_pos h⟩
  · exact .inr ⟨h, if_neg (Nat.not_lt.2 h)⟩

/-- Settles O42: the count stays or is incremented by `satInc`, which stops at the maximum. -/
theorem shortCountSaturates : Obligations.ShortCountSaturates := by
  intro s
  refine ⟨_, exec_update s, ?_⟩
  obtain ⟨-, hcount, -⟩ := s.gesture_cases
  rw [State.setDetector_shortCount]
  rcases hcount with h | h
  · omega
  · rcases satInc_cases s.params s.shortCount with ⟨hlt, hinc⟩ | ⟨hge, hstay⟩ <;> omega

/-! ### Which command changes what -/

/-- Only WBUF writes the buffer space (R44). -/
theorem exec_mem {i : Instr} {s t : State} (h : exec i s = .next t) :
    t.mem = s.mem ∨ ∃ p j v, i = .wbuf p j v ∧ j ≠ 3#2 ∧ t = s.writeBuf p j v := by
  rcases exec_cases h with ⟨-, rfl⟩ | ⟨-, rfl⟩ | hw | ⟨p, -, -, rfl⟩ | ⟨p, -, -, rfl⟩ | ⟨-, rfl⟩ | ⟨-, rfl⟩ |
    ⟨-, rfl⟩ | ⟨-, rfl⟩ | ⟨-, rfl⟩
  case inr.inr.inl => exact .inr hw
  all_goals exact .inl (by simp)

/-- Only UPDATE writes the stable value (R26). -/
theorem exec_value {i : Instr} {s t : State} (h : exec i s = .next t) :
    t.value = s.value ∨ (i = .update ∧ t.value = s.debounce.value) := by
  rcases exec_cases h with ⟨-, rfl⟩ | ⟨-, rfl⟩ | ⟨p, j, v, -, -, rfl⟩ | ⟨p, -, -, rfl⟩ | ⟨p, -, -, rfl⟩ | ⟨hi, rfl⟩ |
    ⟨-, rfl⟩ | ⟨-, rfl⟩ | ⟨-, rfl⟩ | ⟨-, rfl⟩
  case inr.inr.inr.inr.inr.inl => exact .inr ⟨hi, rfl⟩
  all_goals exact .inl (by simp)

/-- Only an accepted TX writes the engine's registers (R63). -/
theorem exec_engine {i : Instr} {s t : State} (h : exec i s = .next t) :
    t.engine = s.engine ∨ ∃ p, i = .tx p ∧ s.busy = false ∧ t = s.startFrame p := by
  rcases exec_cases h with ⟨-, rfl⟩ | ⟨-, rfl⟩ | ⟨p, j, v, -, -, rfl⟩ | ⟨p, -, -, rfl⟩ | hs | ⟨-, rfl⟩ | ⟨-, rfl⟩ |
    ⟨-, rfl⟩ | ⟨-, rfl⟩ | ⟨-, rfl⟩
  case inr.inr.inr.inr.inl => exact .inr hs
  all_goals exact .inl (by simp [State.engine])

/-- Settles O14: the engine writes no buffer byte, and of the commands WBUF alone does. -/
theorem bufferChangesByWbufOnly : Obligations.BufferChangesByWbufOnly := by
  intro s hrst hwbuf
  suffices h : ∃ t, step s = .next t ∧ t.mem = s.mem by
    obtain ⟨t, ht, hmem⟩ := h
    exact ⟨t, ht, hmem, fun a => by rw [hmem]⟩
  rcases step_cases s with ⟨hr, -⟩ | ⟨-, -, h⟩ | ⟨-, i, t, hi, he, h⟩
  · simp [hrst] at hr
  · exact ⟨_, h, by simp⟩
  · rcases exec_mem he with hmem | ⟨p, j, v, rfl, -⟩
    · exact ⟨_, h, by simp [hmem]⟩
    · exact absurd hi (hwbuf p j v)

/-- Settles O31: a changed value comes from the debounce stage of an UPDATE, which accepts a level only after the
window. -/
theorem valueChangesOnlyAfterWindow : Obligations.ValueChangesOnlyAfterWindow := by
  intro s
  rcases step_cases s with ⟨hr, h⟩ | ⟨-, -, h⟩ | ⟨-, i, t, hi, he, h⟩
  · exact ⟨_, h, fun hrst => by simp [hrst] at hr⟩
  · exact ⟨_, h, fun _ hne => absurd (by simp) hne⟩
  · refine ⟨_, h, fun _ hne => ?_⟩
    rw [State.nextCycle_value, engineStep_value] at hne ⊢
    rcases exec_value he with hv | ⟨rfl, hv⟩
    · exact absurd hv hne
    · rw [hv] at hne ⊢
      exact ⟨hi, State.debounce_value_changes hne⟩

/-! ### Reset (R34, R120) -/

/-- Settles O45: the state after a cycle of reset is `resetRegs` at the next clock edge, register by register. -/
theorem resetSetsEveryRegister : Obligations.ResetSetsEveryRegister := by
  intro s hrst
  have hread := State.readBuf_of_nil (s := s.resetRegs.nextCycle) rfl
  have hled := State.ledPort_of_ne_bits (s := s.resetRegs.nextCycle) nofun
  refine ⟨_, step_reset hrst, hread, ?_⟩
  simp [hled, State.not_busy_iff]

/-- Settles O46, from the values of R34 with the defaults of R8. -/
theorem resetStateOfDefaults : Obligations.ResetStateOfDefaults :=
  ⟨by decide, by decide, State.ledPort_of_ne_bits nofun, (State.not_busy_iff _).2 rfl, rfl, ⟨rfl, rfl⟩,
    State.readBuf_of_nil rfl⟩

theorem Inv.resetOf {P : Params} (h : P.wf = true) : Inv (State.resetOf P) where
  params_wf := h
  mem_wf := Memory.wf_reset P
  engine_ok := ⟨rfl, rfl, rfl, rfl⟩
  tEdge_lt := Nat.two_pow_pos _
  tPress_lt := Nat.two_pow_pos _
  shortCount_lt := Nat.two_pow_pos _
  rspData_lt := Nat.two_pow_pos _
  rsp_quiet := fun _ => rfl
  fired_pressed := nofun

/-- Settles O47: the registers of R34 are in the invariant under any admissible parameters. -/
theorem resetKeepsInvariant : Obligations.ResetKeepsInvariant :=
  ⟨fun _ => Inv.resetOf, Inv.resetOf (by decide)⟩

/-! ### The engine inside the invariant (R15, R21, R65) -/

/-- Each shift makes one more low bit of the frame 0 (R15). -/
theorem two_pow_dvd_shift {f : Frame} {b : Nat} (hb : b < 24) (h : f.toNat % 2 ^ b = 0) :
    2 ^ (b + 1) ∣ (f <<< 1).toNat := by
  rw [BitVec.toNat_shiftLeft, Nat.dvd_mod_iff (Nat.pow_dvd_pow 2 hb), Nat.shiftLeft_eq, pow_succ]
  exact Nat.mul_dvd_mul (Nat.dvd_of_mod_eq_zero h) (dvd_refl 2)

/-- After the last bit nothing is left of the frame (R15). -/
theorem shift_last_eq_zero {f : Frame} (h : f.toNat % 2 ^ 23 = 0) : f <<< 1 = 0#24 :=
  BitVec.eq_of_toNat_eq (Nat.eq_zero_of_dvd_of_lt (two_pow_dvd_shift (by decide) h) (f <<< 1).isLt)

theorem State.engineOk_idle {s : State} (h : s.ph = .idle) :
    s.engineOk ↔ s.shreg = 0#24 ∧ s.bitcnt = 0 ∧ s.cyc = 0 ∧ s.gapcnt = 0 := by
  simp [State.engineOk, h]

theorem State.engineOk_bits {s : State} (h : s.ph = .bits) :
    s.engineOk ↔ s.bitcnt < 24 ∧ s.cyc < s.params.tbitCyc ∧ s.gapcnt = 0 ∧ s.shreg.toNat % 2 ^ s.bitcnt = 0 := by
  simp [State.engineOk, h, Config.frameBits]

theorem State.engineOk_gap {s : State} (h : s.ph = .gap) :
    s.engineOk ↔ s.shreg = 0#24 ∧ s.bitcnt = 0 ∧ s.cyc = 0 ∧ s.gapcnt < s.params.gapCyc := by
  simp [State.engineOk, h]

/-- The registers of the engine and the parameters decide it. -/
theorem State.engineOk_congr {s t : State} (he : t.engine = s.engine) (hp : t.params = s.params) :
    t.engineOk ↔ s.engineOk := by
  obtain ⟨h1, h2, h3, h4, h5, h6⟩ := EngineRegs.mk.inj he
  simp only [State.engineOk, h1, h3, h4, h5, h6, hp]

/-- The engine's step keeps its registers in their phase, when the executor left them alone. -/
theorem engineStep_engineOk {s t : State} (hs : s.engineOk) (he : t.engine = s.engine) (hp : t.params = s.params) :
    (engineStep s t).engineOk := by
  obtain ⟨hshreg, -, hph, hbit, hcyc, hgap⟩ := EngineRegs.mk.inj he
  cases h : s.ph with
  | idle =>
    rw [engineStep_idle h]
    exact (State.engineOk_congr he hp).2 hs
  | bits =>
    obtain ⟨hb, hc, hg, hz⟩ := (State.engineOk_bits h).1 hs
    have hpos : 0 < s.params.tbitCyc := by omega
    by_cases hend : s.cyc + 1 = s.params.tbitCyc
    · by_cases hlast : s.bitcnt = 23
      · have hzero : s.shreg <<< 1 = 0#24 := shift_last_eq_zero (hlast ▸ hz)
        rw [engineStep_last_bit h hend hlast]
        by_cases hnogap : s.params.gapCyc = 0
        · simp [State.engineOk, hnogap, hzero]
        · simp [State.engineOk, hnogap, hzero, hp, Nat.pos_of_ne_zero hnogap]
      · rw [engineStep_next_bit h hend hlast, State.engineOk_bits (by exact hph.trans h)]
        simp only [hp, hgap]
        exact ⟨by omega, hpos, hg, Nat.mod_eq_zero_of_dvd (two_pow_dvd_shift hb hz)⟩
    · rw [engineStep_within_bit h hend, State.engineOk_bits (by exact hph.trans h)]
      simp only [hp, hbit, hgap, hshreg]
      exact ⟨hb, by omega, hg, hz⟩
  | gap =>
    obtain ⟨hz, hb, hc, hg⟩ := (State.engineOk_gap h).1 hs
    by_cases hend : s.gapcnt + 1 = s.params.gapCyc
    · rw [engineStep_end_gap h hend, State.engineOk_idle rfl]
      exact ⟨hshreg.trans hz, hbit.trans hb, hcyc.trans hc, rfl⟩
    · rw [engineStep_within_gap h hend, State.engineOk_gap (by exact hph.trans h)]
      simp only [hp, hshreg, hbit, hcyc]
      exact ⟨hz, hb, hc, by omega⟩

/-! ### The invariant, operation by operation -/

theorem Inv.quiet {s : State} (h : Inv s) : Inv s.quiet :=
  { h with rspData_lt := Nat.two_pow_pos _, rsp_quiet := fun _ => rfl }

theorem Inv.nextCycle {s : State} (h : Inv s) : Inv s.nextCycle := { h with }

theorem Inv.resetRegs {s : State} (h : Inv s) : Inv s.resetRegs := { Inv.resetOf h.params_wf with }

theorem Inv.raise {s : State} (h : Inv s) (k : StickyFault) : Inv (s.raise k) := by
  cases k with
  | overrun => exact { h with }
  | illegalCommand => exact { h with }

theorem Inv.writeBuf {s : State} (h : Inv s) (p : Pin) {i : ByteIdx} (v : Byte) (hi : i ≠ 3#2) :
    Inv (s.writeBuf p i v) :=
  { h with mem_wf := State.writeBuf_wf v h.mem_wf hi }

theorem Inv.respond {s : State} (h : Inv s) {v : Nat} (hv : v < 2 ^ s.params.cntW) : Inv (s.respond v) :=
  { h with rspData_lt := hv, rsp_quiet := nofun }

/-- A response of at most a byte fits (R92). -/
theorem Inv.respond_byte {s : State} (h : Inv s) {v : Nat} (hv : v < 2 ^ 8) : Inv (s.respond v) :=
  h.respond (hv.trans_le (Params.byte_le_count h.params_wf))

/-- A frame starts at its first bit, with none sent (R63). -/
theorem Inv.startFrame {s : State} (h : Inv s) (hi : s.busy = false) (p : Pin) : Inv (s.startFrame p) := by
  obtain ⟨-, -, -, hgap⟩ := (State.engineOk_idle (s.not_busy_iff.1 hi)).1 h.engine_ok
  exact { h with engine_ok := ⟨Nat.zero_lt_succ 23, Params.tbitCyc_pos h.params_wf, hgap, Nat.mod_one _⟩ }

/-- UPDATE keeps the ticks and the count in their widths; and `long_fired` stays 1 without an edge only, where the value
is the pressed one as before (R28). -/
theorem Inv.update {s : State} (h : Inv s) : Inv (s.setDetector s.debounce s.gesture) := by
  obtain ⟨hpress, hcount, hfired⟩ := s.gesture_cases
  have htEdge : s.debounce.tEdge < 2 ^ s.params.tickW := by
    rcases s.debounce_tEdge with he | he <;> rw [he]
    exacts [h.tEdge_lt, s.now_lt]
  have htPress : s.gesture.tPress < 2 ^ s.params.tickW := by
    rcases hpress with hp | hp <;> rw [hp]
    exacts [h.tPress_lt, s.now_lt]
  have hshort : s.gesture.shortCount < 2 ^ s.params.cntW := by
    rcases hcount with hc | hc <;> rw [hc]
    exacts [h.shortCount_lt, satInc_lt h.shortCount_lt]
  have hpressed (hf : s.gesture.longFired = true) : (s.debounce.value == s.params.pressedLevel) = true := by
    rcases hfired hf with hv | ⟨hedge, hold⟩
    · exact beq_iff_eq.2 hv
    · rw [State.debounce_value_of_no_edge hedge]
      exact h.fired_pressed hold
  exact { h with tEdge_lt := htEdge, tPress_lt := htPress, shortCount_lt := hshort, fired_pressed := hpressed }

/-- Every command keeps the invariant. -/
theorem Inv.exec {i : Instr} {s t : State} (h : Inv s) (he : exec i s = .next t) : Inv t := by
  rcases exec_cases he with ⟨-, rfl⟩ | ⟨-, rfl⟩ | ⟨p, j, v, -, hj, rfl⟩ | ⟨p, -, -, rfl⟩ | ⟨p, -, hb, rfl⟩ | ⟨-, rfl⟩ |
    ⟨-, rfl⟩ | ⟨-, rfl⟩ | ⟨-, rfl⟩ | ⟨-, rfl⟩
  · exact h
  · exact h.raise _
  · exact h.writeBuf p v hj
  · exact h.raise _
  · exact h.startFrame hb p
  · exact h.update
  · exact h.respond_byte (s.valueWord.isLt.trans (by decide))
  · exact { h.respond h.shortCount_lt with shortCount_lt := Nat.two_pow_pos _ }
  · exact { h.respond_byte ((Bool.toNat_lt _).trans (by decide)) with }
  · exact h.respond_byte s.status.isLt

/-- The engine's step keeps the invariant, laid over what the executor made of the same state: it finds its registers as
they were, or is idle and writes nothing (R91, log 9). -/
theorem Inv.engineStep {s t : State} (hs : Inv s) (ht : Inv t) (hp : t.params = s.params)
    (he : s.ph = .idle ∨ t.engine = s.engine) : Inv (engineStep s t) where
  params_wf := by simpa using ht.params_wf
  mem_wf := by simpa using ht.mem_wf
  engine_ok := by
    rcases he with hidle | he
    · rw [engineStep_idle hidle]
      exact ht.engine_ok
    · exact engineStep_engineOk hs.engine_ok he hp
  tEdge_lt := by simpa using ht.tEdge_lt
  tPress_lt := by simpa using ht.tPress_lt
  shortCount_lt := by simpa using ht.shortCount_lt
  rspData_lt := by simpa using ht.rspData_lt
  rsp_quiet := by simpa using ht.rsp_quiet
  fired_pressed := by simpa [State.pressed] using ht.fired_pressed

/-- Every cycle keeps the invariant. -/
theorem Inv.step {s t : State} (hs : Inv s) (h : step s = .next t) : Inv t := by
  rcases step_cases s with ⟨-, h'⟩ | ⟨-, -, h'⟩ | ⟨-, i, u, -, he, h'⟩
  all_goals obtain rfl : _ = t := Host.Outcome.next.inj (h'.symm.trans h)
  · exact hs.resetRegs.nextCycle
  · exact (hs.engineStep hs.quiet rfl (.inr rfl)).nextCycle
  · obtain ⟨u', hu, hparams, -⟩ := exec_next i s.quiet
    obtain rfl : u = u' := Host.Outcome.next.inj (he.symm.trans hu)
    have hengine : s.ph = .idle ∨ u.engine = s.engine := by
      rcases exec_engine he with hsame | ⟨-, -, hidle, -⟩
      · exact .inr hsame
      · exact .inl (s.not_busy_iff.1 hidle)
    exact (hs.engineStep (hs.quiet.exec he) hparams hengine).nextCycle

/-- Settles O48, from `Inv.step`: each command keeps the invariant, and so does the engine beside it. -/
theorem stepKeepsInvariant : Obligations.StepKeepsInvariant := fun _ _ => Inv.step

/-- So the invariant holds all along a run. -/
theorem Inv.after {s : State} (h : Inv s) (n : Nat) : Inv (s.after n) := by
  induction n with
  | zero => exact h
  | succ n ih => exact ih.step (step_after s n).1

end Sys2Proof.Machine
end

section
/-! PROOFS. The byte order of a frame (spec/20_memory.md R37, R38): where the bits of buffer byte `i` stand in the frame
that TX loads, and which byte the host puts at which index. -/

namespace Sys2Proof.Machine

/-- Buffer byte `i` is byte `2 - i` of the frame, counted from the low end (R38, R40). -/
theorem State.readFrame_getLsbD (s : State) (p : Pin) {i j : Nat} (hi : i < Config.bufBytes) (hj : j < 8) :
    (s.readFrame p).getLsbD (8 * (2 - i) + j) = (s.readBuf p (BitVec.ofNat 2 i)).getLsbD j := by
  have hcases : i = 0 ∨ i = 1 ∨ i = 2 := by simp only [Config.bufBytes] at hi; omega
  rw [State.readFrame, BitVec.getLsbD_append, BitVec.getLsbD_append]
  rcases hcases with rfl | rfl | rfl
  case inl =>
    have hsub : 8 * 2 + j - 8 - 8 = j := by omega
    rw [if_neg (by omega), if_neg (by omega), hsub]
  case inr.inl =>
    have hsub : 8 * 1 + j - 8 = j := by omega
    rw [if_neg (by omega), if_pos (by omega), hsub]
  case inr.inr =>
    rw [if_pos (by omega), Nat.sub_self, Nat.mul_zero, Nat.zero_add]

/-- Settles O16: wire bit `k` is bit `7 - k % 8` of the byte which `State.readFrame_getLsbD` puts `2 - k / 8` bytes
above the low end. -/
theorem wireBitOrder : Obligations.WireBitOrder := by
  intro s p hidle
  refine ⟨_, exec_tx_idle p (s.not_busy_iff.2 hidle), fun k hk => ?_⟩
  simp only [Config.frameBits] at hk
  have hbyte : k / 8 < Config.bufBytes := by simp only [Config.bufBytes]; omega
  have hplace : 23 - k = 8 * (2 - k / 8) + (7 - k % 8) := by omega
  rw [State.startFrame_shreg, hplace]
  exact s.readFrame_getLsbD p hbyte (by omega)

/-- Settles O52: both commands are a `transmit` with its three bytes in the order of R95, and the pins are those of R8. -/
theorem channelOrders : Obligations.ChannelOrders :=
  ⟨fun _ _ _ _ => ⟨rfl, rfl⟩, rfl, rfl⟩

end Sys2Proof.Machine
end

section
/-! PROOFS. The command word (spec/30_encoding.md R50 to R53): a word is the packing of its fields, a mask keeps some of
them, and the decoder reads no others. -/

namespace Sys2Proof

/-! ### Words and their fields (R50) -/

/-- A word is the packing of its four fields. -/
theorem pack_eta (w : CmdWord) : pack (CmdWord.v w) (CmdWord.i w) (CmdWord.p w) (CmdWord.op w) = w := by
  refine BitVec.eq_of_getLsbD_eq fun k hk => ?_
  rw [pack_getLsbD]
  simp only [CmdWord.v, CmdWord.i, CmdWord.p, CmdWord.op, BitVec.getLsbD_extractLsb']
  split_ifs with h3 h4 h6
  · simp [h3]
  · simp [show k = 3 by omega]
  · simp [show k - 4 < 2 by omega, show 4 + (k - 4) = k by omega]
  · simp [show k - 6 < 8 by omega, show 6 + (k - 6) = k by omega]

@[simp] theorem pack_inj {v v' : Byte} {i i' : ByteIdx} {p p' : Pin} {op op' : BitVec 3} :
    pack v i p op = pack v' i' p' op' ↔ v = v' ∧ i = i' ∧ p = p' ∧ op = op' := by
  refine ⟨fun h => ?_, by rintro ⟨rfl, rfl, rfl, rfl⟩; rfl⟩
  obtain ⟨ho, hp, hi, hv⟩ := pack_fields v i p op
  obtain ⟨ho', hp', hi', hv'⟩ := pack_fields v' i' p' op'
  rw [h] at ho hp hi hv
  exact ⟨hv.symm.trans hv', hi.symm.trans hi', hp.symm.trans hp', ho.symm.trans ho'⟩

/-- A mask acts on each field of a word by itself. -/
theorem and_pack (w : CmdWord) (v : Byte) (i : ByteIdx) (p : Pin) (op : BitVec 3) :
    w &&& pack v i p op = pack (CmdWord.v w &&& v) (CmdWord.i w &&& i) (CmdWord.p w &&& p) (CmdWord.op w &&& op) := by
  conv_lhs => rw [← pack_eta w]
  change ((_ ++ _ ++ _ ++ _ : BitVec (8 + 2 + 1 + 3)) &&& _ ++ _ ++ _ ++ _) = _ ++ _ ++ _ ++ _
  rw [BitVec.and_append, BitVec.and_append, BitVec.and_append]

theorem and_opcode_mask (w : CmdWord) : w &&& 0x0007#14 = pack 0#8 0#2 0#1 (CmdWord.op w) := by
  rw [show 0x0007#14 = pack 0#8 0#2 0#1 (BitVec.allOnes 3) by decide, and_pack]
  simp only [BitVec.and_zero, BitVec.and_allOnes]

theorem and_pin_mask (w : CmdWord) : w &&& 0x000F#14 = pack 0#8 0#2 (CmdWord.p w) (CmdWord.op w) := by
  rw [show 0x000F#14 = pack 0#8 0#2 (BitVec.allOnes 1) (BitVec.allOnes 3) by decide, and_pack]
  simp only [BitVec.and_zero, BitVec.and_allOnes]

theorem and_index_mask (w : CmdWord) : w &&& 0x0037#14 = pack 0#8 (CmdWord.i w) 0#1 (CmdWord.op w) := by
  rw [show 0x0037#14 = pack 0#8 (BitVec.allOnes 2) 0#1 (BitVec.allOnes 3) by decide, and_pack]
  simp only [BitVec.and_zero, BitVec.and_allOnes]

theorem and_full_mask (w : CmdWord) : w &&& 0x3FFF#14 = w := BitVec.and_allOnes

/-! ### The decoder, opcode by opcode (R52) -/

theorem decode_wbufRsvd {w : CmdWord} (ho : CmdWord.op w = 1#3) (hi : CmdWord.i w = 3#2) : decode w = .wbufRsvd := by
  simp [decode, ho, hi]

theorem decode_tx {w : CmdWord} (ho : CmdWord.op w = 2#3) : decode w = .tx (CmdWord.p w) := by
  simp [decode, ho]

/-- Of the opcodes only WBUF's and TX's have operands in the word. -/
theorem decode_eq_of_op {w w' : CmdWord} (hop : CmdWord.op w' = CmdWord.op w) (hwbuf : CmdWord.op w ≠ 1#3)
    (htx : CmdWord.op w ≠ 2#3) : decode w' = decode w := by
  simp [decode, hop, hwbuf, htx]

theorem opcode_cases (op : BitVec 3) :
    op = 0#3 ∨ op = 1#3 ∨ op = 2#3 ∨ op = 3#3 ∨ op = 4#3 ∨ op = 5#3 ∨ op = 6#3 ∨ op = 7#3 := by
  revert op; decide

/-- Everything the decoder can answer. -/
theorem decode_cases (w : CmdWord) :
    (CmdWord.op w = 0#3 ∧ decode w = .nop) ∨
    (CmdWord.op w = 1#3 ∧ CmdWord.i w = 3#2 ∧ decode w = .wbufRsvd) ∨
    (CmdWord.op w = 1#3 ∧ CmdWord.i w ≠ 3#2 ∧ decode w = .wbuf (CmdWord.p w) (CmdWord.i w) (CmdWord.v w)) ∨
    (CmdWord.op w = 2#3 ∧ decode w = .tx (CmdWord.p w)) ∨
    (CmdWord.op w = 3#3 ∧ decode w = .update) ∨
    (CmdWord.op w = 4#3 ∧ decode w = .rdValue) ∨
    (CmdWord.op w = 5#3 ∧ decode w = .rdShort) ∨
    (CmdWord.op w = 6#3 ∧ decode w = .rdLong) ∨
    (CmdWord.op w = 7#3 ∧ decode w = .rdStatus) := by
  rcases opcode_cases (CmdWord.op w) with h | h | h | h | h | h | h | h
  case inr.inl => by_cases hi : CmdWord.i w = 3#2 <;> simp [h, hi, decode]
  all_goals simp [h, decode]

/-! ### Decoding and encoding (R51, R57) -/

theorem decode_encode {i : Instr} (h : i.wf = true) : decode (encode i) = i := by
  cases i with
  | nop => exact Laws.RoundTrip.nop h
  | wbufRsvd => exact Laws.RoundTrip.wbufRsvd h
  | wbuf p i v => exact Laws.RoundTrip.wbuf p i v h
  | tx p => exact Laws.RoundTrip.tx p h
  | update => exact Laws.RoundTrip.update h
  | rdValue => exact Laws.RoundTrip.rdValue h
  | rdShort => exact Laws.RoundTrip.rdShort h
  | rdLong => exact Laws.RoundTrip.rdLong h
  | rdStatus => exact Laws.RoundTrip.rdStatus h

/-- The encoder sets the fields its command reads, and no other bit (R51, R57). -/
theorem encode_decode (w : CmdWord) : encode (decode w) = w &&& usedMask (decode w) := by
  rcases decode_cases w with ⟨ho, h⟩ | ⟨ho, hi, h⟩ | ⟨ho, -, h⟩ | ⟨ho, h⟩ | ⟨ho, h⟩ | ⟨ho, h⟩ | ⟨ho, h⟩ | ⟨ho, h⟩ |
    ⟨ho, h⟩
  all_goals rw [h, usedMask, encode]
  case inr.inl => rw [and_index_mask, ho, hi]
  case inr.inr.inl => rw [and_full_mask, ← ho, pack_eta]
  case inr.inr.inr.inl => rw [and_pin_mask, ho]
  all_goals rw [and_opcode_mask, ho]

theorem decode_wf (w : CmdWord) : (decode w).wf = true := by
  rcases decode_cases w with ⟨-, h⟩ | ⟨-, -, h⟩ | ⟨-, hi, h⟩ | ⟨-, h⟩ | ⟨-, h⟩ | ⟨-, h⟩ | ⟨-, h⟩ | ⟨-, h⟩ | ⟨-, h⟩
  all_goals rw [h]
  case inr.inr.inl => simpa [Instr.wf] using hi
  all_goals rfl

/-- Settles O1, command by command for the one direction and field by field for the other. -/
theorem decodeEncodeRoundTrip : Obligations.DecodeEncodeRoundTrip :=
  ⟨fun _ => decode_encode, encode_decode, decode_wf⟩

/-- Settles O4: the masked words determine the fields from which the command of `w` was decoded. -/
theorem unusedFieldsIgnored : Obligations.UnusedFieldsIgnored := by
  intro w w' hagree
  rcases decode_cases w with ⟨ho, h⟩ | ⟨ho, hi, h⟩ | ⟨-, -, h⟩ | ⟨ho, h⟩ | ⟨ho, h⟩ | ⟨ho, h⟩ | ⟨ho, h⟩ | ⟨ho, h⟩ |
    ⟨ho, h⟩
  all_goals rw [h, usedMask] at hagree
  case inr.inl =>
    rw [and_index_mask, and_index_mask, pack_inj] at hagree
    obtain ⟨-, hindex, -, hop⟩ := hagree
    rw [h, decode_wbufRsvd (hop ▸ ho) (hindex ▸ hi)]
  case inr.inr.inl =>
    rw [and_full_mask, and_full_mask] at hagree
    rw [hagree]
  case inr.inr.inr.inl =>
    rw [and_pin_mask, and_pin_mask, pack_inj] at hagree
    obtain ⟨-, -, hpin, hop⟩ := hagree
    rw [h, decode_tx (hop ▸ ho), hpin]
  all_goals
    rw [and_opcode_mask, and_opcode_mask, pack_inj] at hagree
    obtain ⟨-, -, -, hop⟩ := hagree
    exact decode_eq_of_op hop.symm (by simp [ho]) (by simp [ho])

/-- Settles O5: each word is a literal, on which the decoder computes. -/
theorem specWordsDecode : Obligations.SpecWordsDecode := by
  unfold Obligations.SpecWordsDecode
  decide

/-! ### The opcode table (R52) -/

/-- The row of an opcode: its mask keeps the opcode, its match is the opcode with every other bit 0. -/
def opcodeRow (mnemonic : String) (op : BitVec 3) : OpRow := ⟨mnemonic, 0x0007#14, pack 0#8 0#2 0#1 op⟩

/-- The row of the reserved form: its mask keeps the byte index too (R53). -/
def reservedRow : OpRow := ⟨"WBUF.RSVD", 0x0037#14, pack 0#8 3#2 0#1 1#3⟩

/-- The rows of the eight opcodes. -/
def opcodeRows : List OpRow :=
  [opcodeRow "NOP" 0#3, opcodeRow "WBUF" 1#3, opcodeRow "TX" 2#3, opcodeRow "UPDATE" 3#3, opcodeRow "RD_VALUE" 4#3,
   opcodeRow "RD_SHORT" 5#3, opcodeRow "RD_LONG" 6#3, opcodeRow "RD_STATUS" 7#3]

theorem opcodeTable_eq : opcodeTable = opcodeRow "NOP" 0#3 :: reservedRow :: opcodeRows.tail := by decide

theorem opcodeTable_without_reserved : opcodeTable.filter (fun r => r.mnemonic != "WBUF.RSVD") = opcodeRows := by decide

@[simp] theorem opcodeRow_mnemonic (m : String) (op : BitVec 3) : (opcodeRow m op).mnemonic = m := rfl

@[simp] theorem reservedRow_mnemonic : reservedRow.mnemonic = "WBUF.RSVD" := rfl

@[simp] theorem opcodeRow_selects (m : String) (op : BitVec 3) (w : CmdWord) :
    (opcodeRow m op).selects w = decide (CmdWord.op w = op) := by
  rw [OpRow.selects, opcodeRow, and_opcode_mask, Bool.beq_eq_decide_eq]
  simp

@[simp] theorem reservedRow_selects (w : CmdWord) :
    reservedRow.selects w = decide (CmdWord.i w = 3#2 ∧ CmdWord.op w = 1#3) := by
  rw [OpRow.selects, reservedRow, and_index_mask, Bool.beq_eq_decide_eq]
  simp

/-- Settles O2: an opcode's row is selected by the words of that opcode, the reserved row by the words of WBUF with
index 3, and the decoder tells the same cases apart. -/
theorem wordSelectsItsRow : Obligations.WordSelectsItsRow := by
  refine ⟨fun w => ?_, fun w => ?_⟩
  · rw [opcodeTable_eq]
    rcases decode_cases w with ⟨ho, h⟩ | ⟨ho, hi, h⟩ | ⟨ho, hi, h⟩ | ⟨ho, h⟩ | ⟨ho, h⟩ | ⟨ho, h⟩ | ⟨ho, h⟩ | ⟨ho, h⟩ |
      ⟨ho, h⟩
    case inr.inl => simp [opcodeRows, h, ho, hi, Instr.mnemonic]
    case inr.inr.inl => simp [opcodeRows, h, ho, hi, Instr.mnemonic]
    all_goals simp [opcodeRows, h, ho, Instr.mnemonic]
  · rw [opcodeTable_without_reserved]
    rcases opcode_cases (CmdWord.op w) with h | h | h | h | h | h | h | h
    all_goals simp [opcodeRows, h]

end Sys2Proof
end

section
/-! PROOFS. The command of a cycle (spec/30_encoding.md R50): what the ports and a word placed on them run. -/

namespace Sys2Proof.Machine

theorem State.command_of_invalid {s : State} (h : s.input.cmdValid = false) : s.command = none := by
  simp [State.command, h]

/-- What a cycle with `cmd_valid = 0` does takes no port value but `rst` (R50). -/
theorem step_present_no_command (s : State) {x : PortIn} (h : x.cmdValid = false) :
    step (s.present x) = .next (if x.rst then s.resetRegs.nextCycle else (engineStep s s.quiet).nextCycle) := by
  cases hr : x.rst with
  | true => exact step_reset (s := s.present x) hr
  | false =>
    rw [step_no_command (s := s.present x) hr (State.command_of_invalid h)]
    change Host.Outcome.next (engineStep s (s.quiet.withInputs (x :: s.inputs.tail))).nextCycle = _
    rw [engineStep_withInputs]
    simp [State.withInputs, State.nextCycle]

/-- Settles O3, from the bits and the fields of a packed word and the cases of a cycle. -/
theorem commandWordFormat : Obligations.CommandWordFormat := by
  refine ⟨fun v i p op => ⟨fun k hk => ?_, ?_, fun k hk => ?_, fun k hk => ?_, pack_fields v i p op⟩,
    fun s hrst hvalid => ?_, fun s hrst hvalid => ?_, fun s x w hvalid => ?_⟩
  · rw [pack_getLsbD, if_pos hk]
  · exact pack_getLsbD v i p op 3
  · simp [pack_getLsbD, show ¬4 + k < 3 by omega, show ¬4 + k < 4 by omega, show 4 + k < 6 by omega]
  · simp [pack_getLsbD, show ¬6 + k < 3 by omega, show ¬6 + k < 4 by omega]
  · have hcommand : s.command = some (decode s.input.cmd) := State.command_eq_some.2 ⟨hrst, hvalid, rfl⟩
    obtain ⟨t, hexec, -⟩ := exec_next (decode s.input.cmd) s.quiet
    exact ⟨hcommand, t, hexec, step_command hcommand hexec⟩
  · have hcommand := State.command_of_invalid hvalid
    exact ⟨hcommand, step_no_command hrst hcommand⟩
  · exact ⟨_, step_present_no_command s hvalid, step_present_no_command s (x := { x with cmd := w }) hvalid⟩

/-! ### A word placed for the next cycle (log 12) -/

theorem bytesOf_length (n w : Nat) : (bytesOf n w).length = n := by
  induction n generalizing w with
  | zero => rfl
  | succ n ih => simp [bytesOf, ih]

/-- Two bytes of a number hold its low 14 bits. -/
theorem bytesOf_two_word (w : Nat) :
    (BitVec.ofNat 8 (w / 256) ++ BitVec.ofNat 8 w).extractLsb' 0 14 = BitVec.ofNat 14 w := by
  refine BitVec.eq_of_getLsbD_eq fun k hk => ?_
  rw [BitVec.getLsbD_extractLsb', BitVec.getLsbD_append, BitVec.getLsbD_ofNat, BitVec.getLsbD_ofNat,
    BitVec.getLsbD_ofNat, Nat.zero_add, show 256 = 2 ^ 8 by decide, Nat.testBit_div_two_pow]
  split_ifs with hlow
  · simp [hk, hlow]
  · simp [hk, show k - 8 < 8 by omega, show k - 8 + 8 = k by omega]

/-- Bytes without any left over are two (log 11). -/
theorem decodeBytes_all {l : List Byte} {i : Instr} (h : decodeBytes l = .ok (i, [])) :
    ∃ lo hi, l = [lo, hi] ∧ i = decode ((hi ++ lo).extractLsb' 0 14) := by
  unfold decodeBytes at h
  split at h
  · split at h
    · obtain ⟨rfl, rfl⟩ := Prod.mk.inj (Except.ok.inj h)
      exact ⟨_, _, rfl, rfl⟩
    · exact nomatch h
  · exact nomatch h

/-- What the decoder reads from the table's numbering is the command of the 14-bit word. -/
theorem decode_of_decodeTableWord {n w : Nat} {i : Instr} (h : decodeTableWord n w = some i) :
    decode (BitVec.ofNat 14 (w % 2 ^ n)) = i := by
  unfold decodeTableWord at h
  split at h
  case h_2 => simp at h
  case h_1 j hj =>
    obtain rfl : j = i := Option.some.inj h
    obtain ⟨lo, hi, hbytes, rfl⟩ := decodeBytes_all hj
    have hlen : max 2 ((n + 7) / 8) = 2 := by
      rw [← bytesOf_length (max 2 ((n + 7) / 8)) (w % 2 ^ n), hbytes]; rfl
    rw [hlen] at hbytes
    obtain ⟨rfl, rfl⟩ : BitVec.ofNat 8 (w % 2 ^ n) = lo ∧ BitVec.ofNat 8 (w % 2 ^ n / 256) = hi := by
      simpa [bytesOf] using hbytes
    rw [bytesOf_two_word]

theorem State.withFetchWord_input (s : State) (n w : Nat) :
    (s.withFetchWord n w).input.rst = false ∧ (s.withFetchWord n w).input.cmdValid = true ∧
      (s.withFetchWord n w).input.cmd = BitVec.ofNat 14 (w % 2 ^ n) := by
  unfold State.withFetchWord
  split <;> exact ⟨rfl, rfl, rfl⟩

/-- Settles O7: the placed word is the command of the cycle, without reset. -/
theorem fetchWordIsRunNext : Obligations.FetchWordIsRunNext := by
  intro s n w i hword
  obtain ⟨hrst, hvalid, hcmd⟩ := s.withFetchWord_input n w
  have hcommand : (s.withFetchWord n w).command = some i :=
    State.command_eq_some.2 ⟨hrst, hvalid, by rw [hcmd, decode_of_decodeTableWord hword]⟩
  obtain ⟨t, hexec, -⟩ := exec_next i (s.withFetchWord n w).quiet
  exact ⟨hcommand, by rw [step_command hcommand hexec, hexec]; rfl⟩

end Sys2Proof.Machine
end

section
/-! PROOFS. Durations on the wire (spec/30_encoding.md R55, spec/70_reset_and_hazards.md R133). -/

namespace Sys2Proof

/-- Cycles that last a whole number of nanoseconds are not rounded (log 18). -/
theorem Params.cyclesNs_of_lasts {P : Params} {n ns : Nat} (hclk : 0 < P.clkHz) (h : P.lasts n ns = true) :
    P.cyclesNs n = ns :=
  Nat.div_eq_of_eq_mul_left hclk (beq_iff_eq.1 h)

theorem Params.exact_iff {P : Params} :
    P.exact = true ↔ 0 < P.clkHz ∧ P.lasts P.t1hCyc P.t1hNs = true ∧ P.lasts P.t0hCyc P.t0hNs = true ∧
      P.lasts P.tbitCyc P.tbitNs = true := by
  simp [Params.exact, and_assoc]

/-- Settles O25: the defaults are computed, any exact block's durations are unrounded. -/
theorem defaultWireDurations : Obligations.DefaultWireDurations := by
  refine ⟨by decide, by decide, by decide, by decide, by decide, by decide, by decide, by decide, fun Q hexact => ?_⟩
  obtain ⟨hclk, h1, h0, hbit⟩ := Params.exact_iff.1 hexact
  exact ⟨Params.cyclesNs_of_lasts hclk h1, Params.cyclesNs_of_lasts hclk h0, Params.cyclesNs_of_lasts hclk hbit⟩

end Sys2Proof
end

section
/-! PROOFS. How long the engine stays busy (spec/41_led_encoder.md R65, R68): each busy cycle without reset takes one
cycle off `State.busyCycles`. -/

namespace Sys2Proof.Machine

/-- Where the executor leaves the engine's registers alone, the engine's step does with them what it does without a
command. -/
theorem engineStep_engine_congr {s t u : State} (h : t.engine = u.engine) :
    (engineStep s t).engine = (engineStep s u).engine := by
  obtain ⟨h1, h2, h3, h4, h5, h6⟩ := EngineRegs.mk.inj h
  cases hph : s.ph with
  | idle => simpa only [engineStep_idle hph] using h
  | bits =>
    by_cases hend : s.cyc + 1 = s.params.tbitCyc
    · by_cases hlast : s.bitcnt = 23
      · simp only [engineStep_last_bit hph hend hlast, State.engine, h2]
      · simp only [engineStep_next_bit hph hend hlast, State.engine, h2, h3, h6]
    · simp only [engineStep_within_bit hph hend, State.engine, h1, h2, h3, h4, h6]
  | gap =>
    by_cases hend : s.gapcnt + 1 = s.params.gapCyc
    · simp only [engineStep_end_gap hph hend, State.engine, h1, h2, h4, h5]
    · simp only [engineStep_within_gap hph hend, State.engine, h1, h2, h3, h4, h5]

/-- In a busy cycle without reset the engine takes its step, whatever the command (R67, R91). -/
theorem step_engine_of_busy {s t : State} (hrst : s.input.rst = false) (hbusy : s.busy = true) (h : step s = .next t) :
    t.engine = (engineStep s s).engine ∧ t.params = s.params := by
  rcases step_cases s with ⟨hr, -⟩ | ⟨-, -, h'⟩ | ⟨-, i, u, -, he, h'⟩
  · simp [hrst] at hr
  · obtain rfl : _ = t := Host.Outcome.next.inj (h'.symm.trans h)
    exact ⟨engineStep_engine_congr rfl, by simp⟩
  · obtain rfl : _ = t := Host.Outcome.next.inj (h'.symm.trans h)
    obtain ⟨u', hu, hparams, -⟩ := exec_next i s.quiet
    obtain rfl : u = u' := Host.Outcome.next.inj (he.symm.trans hu)
    rcases exec_engine he with hsame | ⟨-, -, hidle, -⟩
    · exact ⟨engineStep_engine_congr hsame, by simpa using hparams⟩
    · simp [hbusy] at hidle

theorem State.busyCycles_idle {s : State} (h : s.ph = .idle) : s.busyCycles = 0 := by
  simp [State.busyCycles, h]

theorem State.busyCycles_bits {s : State} (h : s.ph = .bits) :
    s.busyCycles = (24 - s.bitcnt) * s.params.tbitCyc - s.cyc + s.params.gapCyc := by
  simp [State.busyCycles, h, Config.frameBits]

theorem State.busyCycles_gap {s : State} (h : s.ph = .gap) : s.busyCycles = s.params.gapCyc - s.gapcnt := by
  simp [State.busyCycles, h]

/-- The registers of the engine and the parameters decide it. -/
theorem State.busyCycles_congr {s t : State} (he : t.engine = s.engine) (hp : t.params = s.params) :
    t.busyCycles = s.busyCycles := by
  obtain ⟨-, -, h3, h4, h5, h6⟩ := EngineRegs.mk.inj he
  simp only [State.busyCycles, h3, h4, h5, h6, hp]

/-- The engine's step takes one cycle off (R65). -/
theorem busyCycles_engineStep {s : State} (hok : s.engineOk) (hbusy : s.busy = true) :
    (engineStep s s).busyCycles + 1 = s.busyCycles := by
  cases h : s.ph with
  | idle => exact absurd h (s.busy_iff.1 hbusy)
  | bits =>
    obtain ⟨hb, hc, -, -⟩ := (State.engineOk_bits h).1 hok
    rw [State.busyCycles_bits h]
    have hmul : (24 - s.bitcnt) * s.params.tbitCyc = (23 - s.bitcnt) * s.params.tbitCyc + s.params.tbitCyc := by
      rw [← Nat.succ_mul]; congr 1; omega
    by_cases hend : s.cyc + 1 = s.params.tbitCyc
    · by_cases hlast : s.bitcnt = 23
      · rw [engineStep_last_bit h hend hlast, hlast]
        by_cases hnogap : s.params.gapCyc = 0
        · rw [if_pos hnogap, State.busyCycles_idle rfl]
          omega
        · rw [if_neg hnogap, State.busyCycles_gap rfl]
          simp only
          omega
      · rw [engineStep_next_bit h hend hlast, State.busyCycles_bits (by exact h)]
        simp only [show 24 - (s.bitcnt + 1) = 23 - s.bitcnt by omega]
        omega
    · rw [engineStep_within_bit h hend, State.busyCycles_bits (by exact h)]
      simp only
      omega
  | gap =>
    obtain ⟨-, -, -, hg⟩ := (State.engineOk_gap h).1 hok
    rw [State.busyCycles_gap h]
    by_cases hend : s.gapcnt + 1 = s.params.gapCyc
    · rw [engineStep_end_gap h hend, State.busyCycles_idle rfl]
      omega
    · rw [engineStep_within_gap h hend, State.busyCycles_gap (by exact h)]
      simp only
      omega

/-- In the invariant a state is busy where cycles are left. -/
theorem State.busy_iff_busyCycles_pos {s : State} (hok : s.engineOk) : s.busy = true ↔ 0 < s.busyCycles := by
  refine ⟨fun hbusy => by rw [← busyCycles_engineStep hok hbusy]; omega, fun hpos => ?_⟩
  rw [s.busy_iff]
  intro hidle
  simp [State.busyCycles_idle hidle] at hpos

/-- Along a run without reset the cycles left and the cycles passed sum up to those at its start. -/
theorem Inv.busyCycles_after {s : State} (hs : Inv s) (hreset : s.noReset s.busyCycles) {d : Nat}
    (hd : d ≤ s.busyCycles) : (s.after d).busyCycles + d = s.busyCycles := by
  induction d with
  | zero => rfl
  | succ d ih =>
    have hleft := ih (by omega)
    have hok := (hs.after d).engine_ok
    have hbusy : (s.after d).busy = true := (State.busy_iff_busyCycles_pos hok).2 (by omega)
    have hrst : (s.after d).input.rst = false := by rw [State.after_input]; exact hreset d (by omega)
    obtain ⟨hengine, hparams⟩ := step_engine_of_busy hrst hbusy (step_after s d).1
    have hnext : (s.after (d + 1)).busyCycles + 1 = (s.after d).busyCycles := by
      rw [State.busyCycles_congr hengine (by simp), busyCycles_engineStep hok hbusy]
    omega

/-- Settles O24: cycles are left exactly until `State.busyCycles` of them have passed. -/
theorem busyEndsInTime : Obligations.BusyEndsInTime := by
  intro s hs hreset
  refine ⟨fun d hd => ?_, ?_⟩
  · have hleft := hs.busyCycles_after hreset hd.le
    exact (State.busy_iff_busyCycles_pos (hs.after d).engine_ok).2 (by omega)
  · have hleft := hs.busyCycles_after hreset le_rfl
    rw [Bool.eq_false_iff, ne_eq, State.busy_iff_busyCycles_pos (hs.after _).engine_ok]
    omega

end Sys2Proof.Machine
end

section
/-! PROOFS. TRANSMIT (spec/30_encoding.md R58): three WBUFs and a TX in cycles in which the engine is idle. -/

namespace Sys2Proof.Machine

/-- The state after a cycle of the idle engine with WBUF p, i, v. -/
def State.wroteByte (s : State) (p : Pin) (i : ByteIdx) (v : Byte) : State := (s.quiet.writeBuf p i v).nextCycle

/-- The state after a cycle of the idle engine with TX p. -/
def State.launched (s : State) (p : Pin) : State := (s.quiet.startFrame p).nextCycle

/-- A line with a command puts that command on the ports of its cycle. -/
theorem State.command_of_line {s : State} {i : Instr} {raw : Bool} {now : Nat} {xs : List PortIn} (hwf : i.wf = true)
    (hin : s.inputs = (Line.of i).ports raw now :: xs) : s.command = some i := by
  have hinput : s.input = (Line.of i).ports raw now := by simp [State.input, State.inputAt, hin]
  rw [State.command_eq_some, hinput]
  exact ⟨rfl, rfl, decode_encode hwf⟩

theorem step_wbuf_line {s : State} {p : Pin} {i : ByteIdx} {v : Byte} {raw : Bool} {now : Nat} {xs : List PortIn}
    (hidle : s.ph = .idle) (hi : i ≠ 3#2) (hin : s.inputs = (Line.of (.wbuf p i v)).ports raw now :: xs) :
    step s = .next (s.wroteByte p i v) := by
  have hcommand := State.command_of_line (by simpa [Instr.wf] using hi) hin
  rw [step_command hcommand (exec_wbuf_of_ne p v s.quiet hi), engineStep_idle hidle]
  rfl

theorem step_tx_line {s : State} {p : Pin} {raw : Bool} {now : Nat} {xs : List PortIn}
    (hidle : s.ph = .idle) (hin : s.inputs = (Line.of (.tx p)).ports raw now :: xs) :
    step s = .next (s.launched p) := by
  have hcommand := State.command_of_line (i := .tx p) rfl hin
  rw [step_command hcommand (exec_tx_idle p (s := s.quiet) ((State.not_busy_iff _).2 hidle)), engineStep_idle hidle]
  rfl

theorem State.after_succ_of_step {s t u : State} {n : Nat} (h : s.after n = t) (ht : step t = .next u) :
    s.after (n + 1) = u := by
  subst h
  exact Host.Outcome.next.inj ((step_after s n).1.symm.trans ht)

/-- The four cycles of a TRANSMIT, one line each. -/
theorem State.after_transmit {s : State} {p : Pin} {b0 b1 b2 : Byte} {raw : Bool} {now : Nat} {rest : List PortIn}
    (hidle : s.ph = .idle) (hin : s.inputs = listing raw now (transmit p b0 b1 b2) ++ rest) :
    s.after 4 = (((s.wroteByte p 0#2 b0).wroteByte p 1#2 b1).wroteByte p 2#2 b2).launched p := by
  have hin1 := congrArg List.tail hin
  have hin2 := congrArg List.tail hin1
  have hin3 := congrArg List.tail hin2
  have h1 := s.after_succ_of_step s.after_zero (step_wbuf_line hidle (by decide) hin)
  have h2 := s.after_succ_of_step h1 (step_wbuf_line hidle (by decide) hin1)
  have h3 := s.after_succ_of_step h2 (step_wbuf_line hidle (by decide) hin2)
  exact s.after_succ_of_step h3 (step_tx_line hidle hin3)

/-! ### What the four cycles leave in the registers -/

section
variable {s : State} {p q : Pin} {i j : ByteIdx} (v : Byte)

theorem State.wroteByte_wf (h : s.mem.wf = true) (hi : i ≠ 3#2) : (s.wroteByte p i v).mem.wf = true :=
  State.writeBuf_wf (s := s.quiet) v h hi

theorem State.readBuf_wroteByte_same (h : s.mem.wf = true) : (s.wroteByte p i v).readBuf p i = v :=
  State.readBuf_writeBuf_same (s := s.quiet) p i v h

theorem State.readBuf_wroteByte_ne (h : q ≠ p ∨ j ≠ i) : (s.wroteByte p i v).readBuf q j = s.readBuf q j :=
  State.readBuf_writeBuf_ne (s := s.quiet) v h

@[simp] theorem State.readBuf_launched : (s.launched p).readBuf q j = s.readBuf q j := rfl

theorem State.launched_engine : (s.launched p).engine = ⟨s.readFrame p, p, .bits, 0, 0, s.gapcnt⟩ := rfl

end

/-- Settles O51: the three writes are read back, and the frame of the TX is made of them. -/
theorem transmitSendsThreeBytes : Obligations.TransmitSendsThreeBytes := by
  intro s p b0 b1 b2 raw now rest hs hidle hin
  obtain ⟨-, -, -, hgap⟩ := (State.engineOk_idle hidle).1 hs.engine_ok
  have hrest : (s.after 4).inputs = rest := by rw [s.after_inputs, hin]; rfl
  have hwf1 : (s.wroteByte p 0#2 b0).mem.wf = true := State.wroteByte_wf b0 hs.mem_wf (by decide)
  have hwf2 : ((s.wroteByte p 0#2 b0).wroteByte p 1#2 b1).mem.wf = true := State.wroteByte_wf b1 hwf1 (by decide)
  rw [State.after_transmit hidle hin] at hrest ⊢
  set t := ((s.wroteByte p 0#2 b0).wroteByte p 1#2 b1).wroteByte p 2#2 b2 with ht
  have h0 : t.readBuf p 0#2 = b0 := by
    rw [ht, State.readBuf_wroteByte_ne b2 (.inr (by decide)), State.readBuf_wroteByte_ne b1 (.inr (by decide)),
      State.readBuf_wroteByte_same b0 hs.mem_wf]
  have h1 : t.readBuf p 1#2 = b1 := by
    rw [ht, State.readBuf_wroteByte_ne b2 (.inr (by decide)), State.readBuf_wroteByte_same b1 hwf1]
  have h2 : t.readBuf p 2#2 = b2 := State.readBuf_wroteByte_same b2 hwf2
  have hother (q : Pin) (i : ByteIdx) (hq : q ≠ p) : t.readBuf q i = s.readBuf q i := by
    rw [ht, State.readBuf_wroteByte_ne b2 (.inl hq), State.readBuf_wroteByte_ne b1 (.inl hq),
      State.readBuf_wroteByte_ne b0 (.inl hq)]
  have hframe : t.readFrame p = b0 ++ b1 ++ b2 := by rw [State.readFrame, h0, h1, h2]
  have hgapt : t.gapcnt = 0 := hgap
  exact ⟨by rw [State.launched_engine, hframe, hgapt], h0, h1, h2, hother, rfl, rfl, hrest⟩

end Sys2Proof.Machine
end

section
/-! PROOFS. The commands of the encoder: the words they stand for, what they write, and the outputs
(spec/41_led_encoder.md R61 to R64, R66). -/

namespace Sys2Proof

/-- Exactly the words with opcode 001 and index 3 are the reserved form (R53, R62). -/
theorem decode_eq_wbufRsvd_iff {w : CmdWord} : decode w = .wbufRsvd ↔ CmdWord.op w = 1#3 ∧ CmdWord.i w = 3#2 := by
  refine ⟨fun h => ?_, fun ⟨ho, hi⟩ => decode_wbufRsvd ho hi⟩
  have hcases := decode_cases w
  simpa [h] using hcases

theorem decode_eq_wbuf_iff {w : CmdWord} {p : Pin} {i : ByteIdx} {v : Byte} (hi : i ≠ 3#2) :
    decode w = .wbuf p i v ↔ CmdWord.op w = 1#3 ∧ CmdWord.p w = p ∧ CmdWord.i w = i ∧ CmdWord.v w = v := by
  refine ⟨fun h => ?_, fun ⟨ho, hp, hiw, hv⟩ => by simp [decode, ho, hp, hiw, hv, hi]⟩
  have hcases := decode_cases w
  simp only [h, reduceCtorEq, and_false, false_or, or_false, Instr.wbuf.injEq] at hcases
  obtain ⟨ho, -, rfl, rfl, rfl⟩ := hcases
  exact ⟨ho, rfl, rfl, rfl⟩

theorem decode_eq_tx_iff {w : CmdWord} {p : Pin} : decode w = .tx p ↔ CmdWord.op w = 2#3 ∧ CmdWord.p w = p := by
  refine ⟨fun h => ?_, fun ⟨ho, hp⟩ => (decode_tx ho).trans (by rw [hp])⟩
  have hcases := decode_cases w
  simpa [h, eq_comm] using hcases

/-- Both high times are at least one cycle (R8). -/
theorem Params.highTimes_pos {P : Params} (h : P.wf = true) : 0 < P.t0hCyc ∧ 0 < P.t1hCyc := by
  obtain ⟨h0, h1, -⟩ := Params.wf_iff.1 h
  exact ⟨h0, h0.trans h1⟩

end Sys2Proof

namespace Sys2Proof.Machine

/-! ### The outputs (R66) -/

theorem State.ledOut_iff (s : State) (q : Pin) :
    s.ledOut q = true ↔ s.ph = .bits ∧ s.sel = q ∧
      s.cyc < if s.shreg.getLsbD 23 = true then s.params.t1hCyc else s.params.t0hCyc := by
  simp [State.ledOut, State.highCyc, and_assoc]

theorem State.ledOut_of_ne_sel {s : State} {q : Pin} (h : q ≠ s.sel) : s.ledOut q = false := by
  rw [Bool.eq_false_iff, ne_eq, State.ledOut_iff]
  exact fun ⟨_, hsel, _⟩ => h hsel.symm

/-- Bit `q` of the port is pin `q` (R13). -/
theorem State.ledPort_getLsbD (s : State) :
    s.ledPort.getLsbD 0 = s.ledOut 0#1 ∧ s.ledPort.getLsbD 1 = s.ledOut 1#1 := by
  rw [State.ledPort, BitVec.getLsbD_append, BitVec.getLsbD_append]
  simp

/-- Both pins are the functions of the engine's registers and the parameters that R66 gives. -/
theorem State.ledPort_congr {s t : State} (he : t.engine = s.engine) (hp : t.params = s.params) :
    t.ledPort = s.ledPort := by
  obtain ⟨h1, h2, h3, -, h5, -⟩ := EngineRegs.mk.inj he
  have hout (q : Pin) : t.ledOut q = s.ledOut q := by
    rw [Bool.eq_iff_iff, State.ledOut_iff, State.ledOut_iff, h1, h2, h3, h5, hp]
  rw [State.ledPort, State.ledPort, hout, hout]

/-- Settles O20: `State.ledOut_iff`, and a frame has one pin. -/
theorem outputsOfState : Obligations.OutputsOfState := by
  intro s
  have hnotBoth : ¬(s.ledOut 0#1 = true ∧ s.ledOut 1#1 = true) := by
    rintro ⟨h0, h1⟩
    obtain ⟨-, hsel0, -⟩ := (s.ledOut_iff _).1 h0
    obtain ⟨-, hsel1, -⟩ := (s.ledOut_iff _).1 h1
    exact absurd (hsel0.symm.trans hsel1) (by decide)
  obtain ⟨hbit0, hbit1⟩ := s.ledPort_getLsbD
  exact ⟨s.ledOut_iff, s.busy_iff, fun _ => State.ledOut_of_ne_sel, fun q h => State.ledOut_of_ne_bits h q, hnotBoth,
    hbit0, hbit1⟩

/-! ### WBUF (R61, R62) -/

/-- Settles O12, from the rules of a write to the buffer space. -/
theorem wbufWritesOneByte : Obligations.WbufWritesOneByte :=
  fun s p i v hwf hi => ⟨fun _ => decode_eq_wbuf_iff hi, _, exec_wbuf_of_ne p v s hi,
    State.readBuf_writeBuf_same p i v hwf, fun _ _ => State.readBuf_writeBuf_ne v,
    fun _ => Memory.read_write_ne v s.mem, rfl⟩

/-- Settles O13: the word by its fields, and both terms raise the illegal command. -/
theorem reservedWbufSetsIll : Obligations.ReservedWbufSetsIll :=
  ⟨fun _ => decode_eq_wbufRsvd_iff, exec_wbufRsvd, fun s p v => exec_wbuf_three p v s⟩

/-! ### TX (R63, R64) -/

/-- A frame starts with its first high cycle (R63). -/
theorem State.startFrame_ledOut {s : State} (h : s.params.wf = true) (p : Pin) : (s.startFrame p).ledOut p = true := by
  obtain ⟨h0, h1⟩ := Params.highTimes_pos h
  rw [State.ledOut_iff]
  refine ⟨rfl, rfl, ?_⟩
  split
  exacts [h1, h0]

/-- Settles O15: the TX of an idle engine is `State.startFrame`. -/
theorem txStartsFrame : Obligations.TxStartsFrame :=
  fun s p hidle => ⟨fun _ => decode_eq_tx_iff, _, exec_tx_idle p (s.not_busy_iff.2 hidle), rfl, rfl,
    fun hwf => State.startFrame_ledOut hwf p⟩

/-- The engine neither reads nor writes `ovr` (R65). -/
theorem engineStep_raise_overrun (s t : State) :
    engineStep s (t.raise .overrun) = (engineStep s t).raise .overrun := by
  cases h : s.ph with
  | idle => rw [engineStep_idle h, engineStep_idle h]
  | bits =>
    by_cases hend : s.cyc + 1 = s.params.tbitCyc
    · by_cases hlast : s.bitcnt = 23
      · rw [engineStep_last_bit h hend hlast, engineStep_last_bit h hend hlast]; rfl
      · rw [engineStep_next_bit h hend hlast, engineStep_next_bit h hend hlast]; rfl
    · rw [engineStep_within_bit h hend, engineStep_within_bit h hend]; rfl
  | gap =>
    by_cases hend : s.gapcnt + 1 = s.params.gapCyc
    · rw [engineStep_end_gap h hend, engineStep_end_gap h hend]; rfl
    · rw [engineStep_within_gap h hend, engineStep_within_gap h hend]; rfl

/-- Settles O17: the dropped TX raises `ovr` in the state the executor leaves as it was, and the engine's step goes on
over it. -/
theorem txWhileBusyIsDropped : Obligations.TxWhileBusyIsDropped := by
  refine ⟨fun s p hph => exec_tx_busy p (s.busy_iff.2 hph), fun s x p hph hrst hvalid hdecode => ?_⟩
  have hbusy : s.busy = true := s.busy_iff.2 hph
  have hcommand : (s.present x).command = some (.tx p) := State.command_eq_some.2 ⟨hrst, hvalid, hdecode⟩
  have hdropped := exec_tx_busy p (s := (s.present x).quiet) hbusy
  have hpresent : s.present x = s.withInputs (x :: s.inputs.tail) := rfl
  refine ⟨(engineStep s s.quiet).nextCycle, by simp [step_present_no_command, hrst], ?_⟩
  rw [step_command hcommand hdropped, engineStep_raise_overrun, hpresent, State.withInputs_quiet,
    engineStep_withInputs_left, engineStep_withInputs]
  simp [State.raise, State.withInputs, State.nextCycle]

end Sys2Proof.Machine
end

section
/-! PROOFS. The bit engine in one cycle (spec/41_led_encoder.md R65): what reset, an accepted TX and every other cycle
make of its registers. -/

namespace Sys2Proof.Machine

/-- The cycle of an accepted TX (R63). -/
theorem step_tx_idle {s : State} {p : Pin} (hidle : s.ph = .idle) (hc : s.command = some (.tx p)) :
    step s = .next (s.launched p) := by
  rw [step_command hc (exec_tx_idle p (s := s.quiet) (s.not_busy_iff.2 hidle)), engineStep_idle hidle]
  rfl

/-- Everything a cycle can do to the engine: reset, the start of a frame, or the engine's own step (R65). -/
theorem step_engine_cases (s : State) : ∃ t, step s = .next t ∧
    ((s.input.rst = true ∧ t = s.resetRegs.nextCycle) ∨
     (∃ p, s.ph = .idle ∧ s.command = some (.tx p) ∧ t = s.launched p) ∨
     (s.input.rst = false ∧ (s.ph = .idle → ∀ p, s.command ≠ some (.tx p)) ∧
       t.engine = (engineStep s s).engine)) := by
  rcases step_cases s with ⟨hrst, h⟩ | ⟨hrst, hnone, h⟩ | ⟨hrst, i, u, hi, he, h⟩
  · exact ⟨_, h, .inl ⟨hrst, rfl⟩⟩
  · exact ⟨_, h, .inr (.inr ⟨hrst, fun _ p => by simp [hnone], engineStep_engine_congr rfl⟩)⟩
  · by_cases htx : s.ph = .idle ∧ ∃ p, i = .tx p
    · obtain ⟨hidle, p, rfl⟩ := htx
      exact ⟨_, step_tx_idle hidle hi, .inr (.inl ⟨p, hidle, hi, rfl⟩)⟩
    · refine ⟨_, h, .inr (.inr ⟨hrst, fun hidle p hp => htx ⟨hidle, p, by simpa [hi] using hp⟩, ?_⟩)⟩
      rcases exec_engine he with hsame | ⟨p, hp, hidle, -⟩
      · exact engineStep_engine_congr hsame
      · exact absurd ⟨s.not_busy_iff.1 hidle, p, hp⟩ htx

/-- Settles O18: the three cases of `step_engine_cases`, the last one phase by phase. -/
theorem engineStepOfCycle : Obligations.EngineStepOfCycle := by
  intro s hs
  have hbit := Params.tbitCyc_pos hs.params_wf
  have hlastCyc : s.cyc = s.params.tbitCyc - 1 ↔ s.cyc + 1 = s.params.tbitCyc := by omega
  have hlastGap (hg : s.ph = .gap) : s.gapcnt = s.params.gapCyc - 1 ↔ s.gapcnt + 1 = s.params.gapCyc := by
    obtain ⟨-, -, -, hlt⟩ := (State.engineOk_gap hg).1 hs.engine_ok
    omega
  obtain ⟨t, ht, ⟨hrst, rfl⟩ | ⟨p, hidle, hc, rfl⟩ | ⟨hrst, hnotx, he⟩⟩ := step_engine_cases s
  · exact ⟨_, ht, fun _ => rfl, fun hno => by simp [hno] at hrst⟩
  · obtain ⟨hrst, -⟩ := State.command_eq_some.1 hc
    refine ⟨_, ht, fun h => by simp [hrst] at h, fun _ => ?_⟩
    simp [hidle, hc, State.launched_engine]
  · refine ⟨t, ht, fun h => by simp [hrst] at h, fun _ => ⟨fun h _ => ?_, fun p h hc => absurd hc (hnotx h p),
      fun h hcyc => ?_, fun h hcyc hlast => ?_, fun h hcyc hlast => ?_, fun h hgap => ?_, fun h hgap => ?_⟩⟩
    all_goals rw [he]
    · rw [engineStep_idle h]
    · rw [engineStep_within_bit h (by rwa [ne_eq, ← hlastCyc])]; simp only [State.engine, h]
    · rw [engineStep_next_bit h (hlastCyc.1 hcyc) hlast]; simp only [State.engine, h]
    · rw [engineStep_last_bit h (hlastCyc.1 hcyc) hlast]; rfl
    · rw [engineStep_end_gap h ((hlastGap h).1 hgap)]; rfl
    · rw [engineStep_within_gap h (by rwa [ne_eq, ← hlastGap h])]; simp only [State.engine, h]

/-- Settles O19: read off the engine's step, in which every other clause of R65 keeps `ph`. -/
theorem phaseChangesOnlyBy : Obligations.PhaseChangesOnlyBy := by
  intro s hs
  obtain ⟨t, ht, hreset, hrun⟩ := engineStepOfCycle s hs
  refine ⟨t, ht, fun hne => ?_⟩
  cases hrst : s.input.rst with
  | true => exact .inl ⟨rfl, hreset hrst⟩
  | false =>
    obtain ⟨hstays, htx, hwithin, hnext, hlast, hend, hgap⟩ := hrun hrst
    have hsame (he : t.engine.ph = s.ph) : False := hne he
    cases hph : s.ph with
    | idle =>
      by_cases hc : ∃ p, s.command = some (.tx p)
      · obtain ⟨p, hp⟩ := hc
        exact .inr (.inl ⟨rfl, congrArg EngineRegs.ph (htx p hph hp), p, hp⟩)
      · exact (hsame (congrArg EngineRegs.ph (hstays hph (not_exists.1 hc)))).elim
    | bits =>
      by_cases hcyc : s.cyc = s.params.tbitCyc - 1
      · by_cases hb : s.bitcnt = 23
        · exact .inr (.inr (.inl ⟨rfl, hcyc, hb, congrArg EngineRegs.ph (hlast hph hcyc hb)⟩))
        · exact (hsame ((congrArg EngineRegs.ph (hnext hph hcyc hb)).trans hph.symm)).elim
      · exact (hsame ((congrArg EngineRegs.ph (hwithin hph hcyc)).trans hph.symm)).elim
    | gap =>
      by_cases hg : s.gapcnt = s.params.gapCyc - 1
      · exact .inr (.inr (.inr ⟨rfl, hg, congrArg EngineRegs.ph (hend hph hg)⟩))
      · exact (hsame ((congrArg EngineRegs.ph (hgap hph hg)).trans hph.symm)).elim

end Sys2Proof.Machine
end

section
/-! PROOFS. A frame in flight (spec/41_led_encoder.md R67, R68, R71). The busy cycles left say which phase the engine is
in and where it stands in the frame; beside them a run keeps only which frame is being sent, and on which pin. -/

namespace Sys2Proof.Machine

/-! ### The engine by itself (R71) -/

/-- The engine's step reads its own registers and the parameters only. -/
theorem engineStep_congr_left {s u : State} (he : s.engine = u.engine) (hp : s.params = u.params) (t : State) :
    engineStep s t = engineStep u t := by
  obtain ⟨h1, -, h3, h4, h5, h6⟩ := EngineRegs.mk.inj he
  simp only [engineStep, endBit, h1, h3, h4, h5, h6, hp]

/-- Settles O23, by induction on the number of cycles: as long as it is busy the engine takes its own step in
both runs. -/
theorem frameInFlightUndisturbed : Obligations.FrameInFlightUndisturbed := by
  intro s u n he hp hs hu hbusy
  have hsame : ∀ k ≤ n, (s.after k).engine = (u.after k).engine := by
    intro k
    induction k with
    | zero => exact fun _ => he
    | succ k ih =>
      intro hk
      have hek := ih (by omega)
      have hpk : (s.after k).params = (u.after k).params := by simpa using hp
      have hbs : (s.after k).busy = true := hbusy k hk
      have hbu : (u.after k).busy = true := by
        rw [State.busy_iff] at hbs ⊢
        exact fun hidle => hbs ((congrArg EngineRegs.ph hek).trans hidle)
      obtain ⟨hsnext, -⟩ := step_engine_of_busy ((s.after_input k).symm ▸ hs k hk) hbs (step_after s k).1
      obtain ⟨hunext, -⟩ := step_engine_of_busy ((u.after_input k).symm ▸ hu k hk) hbu (step_after u k).1
      rw [hsnext, hunext, engineStep_congr_left hek hpk]
      exact engineStep_engine_congr hek
  exact ⟨hsame n le_rfl, State.ledPort_congr (hsame n le_rfl) (by simpa using hp)⟩

/-! ### Where the engine stands, by the busy cycles left (R68) -/

/-- The frame's bits come before the gap. -/
theorem State.bits_iff_gap_lt_busyCycles {s : State} (hok : s.engineOk) :
    s.ph = .bits ↔ s.params.gapCyc < s.busyCycles := by
  cases h : s.ph with
  | idle => simp [State.busyCycles_idle h]
  | bits =>
    obtain ⟨hb, hc, -, -⟩ := (State.engineOk_bits h).1 hok
    have hmul : s.params.tbitCyc ≤ (24 - s.bitcnt) * s.params.tbitCyc := Nat.le_mul_of_pos_left _ (by omega)
    rw [State.busyCycles_bits h]
    simp only [true_iff]
    omega
  | gap => simp [State.busyCycles_gap h]

/-- After `e` of its cycles a frame is in bit `e / TBIT_CYC`, at cycle `e % TBIT_CYC` of it (R67). -/
theorem State.bits_position {s : State} {e : Nat} (hok : s.engineOk) (h : s.ph = .bits)
    (hleft : s.busyCycles + e = 24 * s.params.tbitCyc + s.params.gapCyc) :
    e / s.params.tbitCyc = s.bitcnt ∧ e % s.params.tbitCyc = s.cyc := by
  obtain ⟨hb, hc, -, -⟩ := (State.engineOk_bits h).1 hok
  have hle : s.params.tbitCyc ≤ (24 - s.bitcnt) * s.params.tbitCyc := Nat.le_mul_of_pos_left _ (by omega)
  have hsum : (24 - s.bitcnt) * s.params.tbitCyc + s.params.tbitCyc * s.bitcnt = 24 * s.params.tbitCyc := by
    rw [Nat.mul_comm s.params.tbitCyc, ← Nat.add_mul, Nat.sub_add_cancel hb.le]
  rw [State.busyCycles_bits h] at hleft
  exact (Nat.div_mod_unique (by omega)).2 ⟨by omega, hc⟩

/-! ### Which frame is sent -/

/-- The engine sends frame `f` on pin `p`: what stands in `shreg` is `f` without the bits already sent (R15). -/
def State.sends (s : State) (f : Frame) (p : Pin) : Prop := s.sel = p ∧ (s.ph = .bits → s.shreg = f <<< s.bitcnt)

theorem State.sends_congr {s t : State} {f : Frame} {p : Pin} (he : t.engine = s.engine) :
    t.sends f p ↔ s.sends f p := by
  obtain ⟨h1, h2, h3, h4, -, -⟩ := EngineRegs.mk.inj he
  simp only [State.sends, h1, h2, h3, h4]

/-- The engine's step shifts `shreg` and counts the bit together (R65). -/
theorem State.sends.engineStep {s : State} {f : Frame} {p : Pin} (h : s.sends f p) : (engineStep s s).sends f p := by
  obtain ⟨hsel, hshreg⟩ := h
  refine ⟨by simpa using hsel, ?_⟩
  cases hph : s.ph with
  | idle => simp [engineStep_idle hph, hph]
  | bits =>
    by_cases hend : s.cyc + 1 = s.params.tbitCyc
    · by_cases hlast : s.bitcnt = 23
      · rw [engineStep_last_bit hph hend hlast]
        simp only
        split <;> exact nofun
      · rw [engineStep_next_bit hph hend hlast]
        exact fun _ => by simp only [hshreg hph, BitVec.shiftLeft_add]
    · rw [engineStep_within_bit hph hend]
      exact hshreg
  | gap =>
    by_cases hend : s.gapcnt + 1 = s.params.gapCyc
    · simp [engineStep_end_gap hph hend]
    · simp [engineStep_within_gap hph hend, hph]

/-- Along a run without reset the same frame is sent, and each cycle takes one off the busy cycles left. -/
theorem Inv.inFlight_after {s : State} {f : Frame} {p : Pin} (hs : Inv s) (hf : s.sends f p) {d : Nat}
    (hreset : s.noReset d) (hd : d ≤ s.busyCycles) :
    (s.after d).sends f p ∧ (s.after d).busyCycles + d = s.busyCycles := by
  induction d with
  | zero => exact ⟨hf, rfl⟩
  | succ d ih =>
    obtain ⟨hsends, hleft⟩ := ih (fun k hk => hreset k (by omega)) (by omega)
    have hok := (hs.after d).engine_ok
    have hbusy : (s.after d).busy = true := (State.busy_iff_busyCycles_pos hok).2 (by omega)
    have hrst : (s.after d).input.rst = false := by rw [State.after_input]; exact hreset d (by omega)
    obtain ⟨hengine, -⟩ := step_engine_of_busy hrst hbusy (step_after s d).1
    have hone := busyCycles_engineStep hok hbusy
    rw [← State.busyCycles_congr hengine (by simp)] at hone
    exact ⟨(State.sends_congr hengine).2 hsends.engineStep, by omega⟩

/-- The frame and the cycles left, `d` cycles after the first one of an accepted TX's frame (R63, R68). -/
theorem Inv.frame_after {s : State} {p : Pin} {d : Nat} (hs : Inv s) (hidle : s.ph = .idle)
    (hc : s.command = some (.tx p)) (hreset : s.noReset (d + 1))
    (hd : d ≤ 24 * s.params.tbitCyc + s.params.gapCyc) :
    (s.after (d + 1)).sends (s.readFrame p) p ∧
      (s.after (d + 1)).busyCycles + d = 24 * s.params.tbitCyc + s.params.gapCyc := by
  have hlaunch : s.after 1 = s.launched p := s.after_succ_of_step s.after_zero (step_tx_idle hidle hc)
  have hsends : (s.after 1).sends (s.readFrame p) p := hlaunch ▸ ⟨rfl, fun _ => (BitVec.shiftLeft_zero _).symm⟩
  have hcycles : (s.after 1).busyCycles = 24 * s.params.tbitCyc + s.params.gapCyc := by
    rw [hlaunch, State.busyCycles_bits rfl]; rfl
  have hlater : (s.after 1).noReset d := fun k hk => by
    rw [State.after_inputAt]; exact hreset (1 + k) (by omega)
  rw [Nat.add_comm d 1, State.after_add, ← hcycles]
  exact (hs.after 1).inFlight_after hsends hlater (hcycles ▸ hd)

/-- Settles O21: the cycles left give the phase and the position, and the frame sent gives `shreg` and the pin. -/
theorem frameClosedForm : Obligations.FrameClosedForm := by
  intro s p d hs hidle hc hd1 hd hreset
  simp only [Config.frameBits] at hd
  obtain ⟨e, rfl⟩ := Nat.exists_eq_add_of_le' hd1
  obtain ⟨⟨hsel, hshreg⟩, hleft⟩ := hs.frame_after hidle hc hreset (by omega)
  have hok := (hs.after (e + 1)).engine_ok
  have hparams := s.after_params (e + 1)
  have hph : (s.after (e + 1)).ph = .bits := by rw [State.bits_iff_gap_lt_busyCycles hok, hparams]; omega
  obtain ⟨hb, -, hgap, -⟩ := (State.engineOk_bits hph).1 hok
  obtain ⟨hbit, hcyc⟩ := State.bits_position hok hph (by rw [hparams]; exact hleft)
  have hsent : (s.after (e + 1)).shreg.getLsbD 23 = (s.readFrame p).getLsbD (23 - (s.after (e + 1)).bitcnt) := by
    rw [hshreg hph, BitVec.getLsbD_shiftLeft]
    simp [show (s.after (e + 1)).bitcnt ≤ 23 by omega]
  rw [hparams] at hbit hcyc
  rw [Nat.add_sub_cancel, hbit, hcyc]
  refine ⟨?_, ?_, fun q hq => State.ledOut_of_ne_sel (by rwa [hsel])⟩
  · rw [State.engine, hshreg hph, hsel, hph, hgap]
  · rw [State.ledOut_iff, hsent, hparams]
    simp only [hph, hsel, true_and]

/-- Settles O22: the engine is busy while cycles are left, in the gap while no more than `GAP_CYC` of them are, and idle
with its registers at 0 when none is. -/
theorem frameLength : Obligations.FrameLength := by
  intro s p hs hidle hc hreset
  simp only [Config.frameBits] at hreset ⊢
  have hframe (d : Nat) (hd : d ≤ 24 * s.params.tbitCyc + s.params.gapCyc) :=
    hs.frame_after (d := d) hidle hc (fun k hk => hreset k (by omega)) hd
  refine ⟨s.not_busy_iff.2 hidle, fun d hd1 hd => ?_, fun d q hd1 hd => ?_, ?_⟩
  · obtain ⟨e, rfl⟩ := Nat.exists_eq_add_of_le' hd1
    obtain ⟨-, hleft⟩ := hframe e (by omega)
    exact (State.busy_iff_busyCycles_pos (hs.after _).engine_ok).2 (by omega)
  · obtain ⟨e, rfl⟩ := Nat.exists_eq_add_of_le' (Nat.one_le_of_lt hd1)
    obtain ⟨-, hleft⟩ := hframe e (by omega)
    refine State.ledOut_of_ne_bits (fun hbits => ?_) q
    rw [State.bits_iff_gap_lt_busyCycles (hs.after _).engine_ok, State.after_params] at hbits
    omega
  · obtain ⟨⟨hsel, -⟩, hleft⟩ := hframe _ le_rfl
    have hok := (hs.after (24 * s.params.tbitCyc + s.params.gapCyc + 1)).engine_ok
    have hend : (s.after (24 * s.params.tbitCyc + s.params.gapCyc + 1)).ph = .idle := by
      rw [← State.not_busy_iff, Bool.eq_false_iff, ne_eq, State.busy_iff_busyCycles_pos hok]
      omega
    obtain ⟨hshreg, hbit, hcyc, hgap⟩ := (State.engineOk_idle hend).1 hok
    rw [State.engine, hshreg, hsel, hend, hbit, hcyc, hgap]

end Sys2Proof.Machine
end

section
/-! PROOFS. UPDATE's first stage and the cycles around it (spec/42_debounce_filter.md R74 to R79): what the stage makes
of a state, what a cycle without UPDATE leaves of the detector, which ports a cycle reads, and, over runs, the short pulse
and the filter that restarts its timer. -/

namespace Sys2Proof.Machine

/-! ### The debounce stage of a state, case by case (R75) -/

section
variable {s : State}

theorem State.debounce_same_level (hr : s.raw = s.value) : s.debounce = ⟨s.value, false, s.tEdge, false⟩ := by
  cases hu : s.unstable with
  | false => rw [State.debounce, hu, debounceStage_stable_same _ _ _ hr]
  | true => rw [State.debounce, hu, debounceStage_unstable_back _ _ _ hr]

theorem State.debounce_first_new_level (hu : s.unstable = false) (hr : s.raw ≠ s.value) :
    s.debounce = ⟨s.value, true, s.now, false⟩ := by
  rw [State.debounce, hu, debounceStage_stable_new _ _ _ hr]

theorem State.debounce_after_window (hu : s.unstable = true) (hr : s.raw ≠ s.value)
    (hw : s.params.debounceMs ≤ tickDiff s.params s.now s.tEdge) : s.debounce = ⟨s.raw, false, s.tEdge, true⟩ := by
  rw [State.debounce, hu, debounceStage_accepts hr hw]

theorem State.debounce_within_window (hu : s.unstable = true) (hr : s.raw ≠ s.value)
    (hw : tickDiff s.params s.now s.tEdge < s.params.debounceMs) : s.debounce = ⟨s.value, true, s.tEdge, false⟩ := by
  rw [State.debounce, hu, debounceStage_waits hr hw]

end

/-- Settles O30, one case of the stage after the other; the edge is the change of the stable value. -/
theorem debounceStageOfUpdate : Obligations.DebounceStageOfUpdate := by
  intro s
  refine ⟨_, exec_update s, fun hu hr => ?_, fun _ hr => ?_, fun _ hr => ?_, fun hu hr hw => ?_, fun hu hr hw => ?_,
    debounceStage_edge_iff ..⟩
  · rw [State.debounce_first_new_level hu hr]; exact ⟨rfl, rfl, rfl⟩
  · rw [State.debounce_same_level hr]; exact ⟨rfl, rfl, rfl⟩
  · rw [State.debounce_same_level hr]; exact ⟨rfl, rfl, rfl⟩
  · rw [State.debounce_after_window hu hr hw]; exact ⟨rfl, rfl, rfl⟩
  · rw [State.debounce_within_window hu hr hw]; exact ⟨rfl, rfl, rfl⟩

/-- Settles O29: all that UPDATE writes it writes through `State.setDetector`. -/
theorem updateWritesDetectorOnly : Obligations.UpdateWritesDetectorOnly :=
  fun s => ⟨_, exec_update s, rfl, rfl, rfl, rfl, rfl, fun _ => rfl⟩

/-! ### The detector in one cycle (R74, R86, R87) -/

/-- What every command but UPDATE does to the detector: RD_LONG takes the event and RD_SHORT the count. -/
theorem exec_detector {i : Instr} {s t : State} (h : exec i s = .next t) (hi : i ≠ .update) :
    t.detector = { s.detector with
      longPending := if i = .rdLong then false else s.longPending
      shortCount := if i = .rdShort then 0 else s.shortCount } := by
  rcases exec_cases h with ⟨rfl, rfl⟩ | ⟨rfl | ⟨p, v, rfl⟩, rfl⟩ | ⟨p, j, v, rfl, -, rfl⟩ | ⟨p, rfl, -, rfl⟩ |
    ⟨p, rfl, -, rfl⟩ | ⟨rfl, -⟩ | ⟨rfl, rfl⟩ | ⟨rfl, rfl⟩ | ⟨rfl, rfl⟩ | ⟨rfl, rfl⟩
  case inr.inr.inr.inr.inr.inl => exact absurd rfl hi
  all_goals rfl

/-- The same of a whole cycle without reset and without UPDATE. -/
theorem step_detector_of_no_update {s t : State} (hrst : s.input.rst = false) (hc : s.command ≠ some .update)
    (h : step s = .next t) :
    t.detector = { s.detector with
      longPending := if s.command = some .rdLong then false else s.longPending
      shortCount := if s.command = some .rdShort then 0 else s.shortCount } := by
  rcases step_cases s with ⟨hr, -⟩ | ⟨-, hn, h'⟩ | ⟨-, i, u, hi, he, h'⟩
  · simp [hrst] at hr
  · obtain rfl : _ = t := Host.Outcome.next.inj (h'.symm.trans h)
    simp [State.detector, hn]
  · obtain rfl : _ = t := Host.Outcome.next.inj (h'.symm.trans h)
    have hu := exec_detector he fun hupdate => hc (hi.trans (congrArg some hupdate))
    simpa [State.detector, hi] using hu

/-- A cycle with an UPDATE leaves the filter as its debounce stage does. -/
theorem step_filter_of_update {s t : State} (hc : s.command = some .update) (h : step s = .next t) :
    t.value = s.debounce.value ∧ t.unstable = s.debounce.unstable ∧ t.tEdge = s.debounce.tEdge := by
  obtain rfl : _ = t := Host.Outcome.next.inj ((step_command hc (exec_update s.quiet)).symm.trans h)
  simp

/-- Settles O32: field by field, what a cycle without UPDATE leaves of the detector. -/
theorem detectorMovesByUpdateOnly : Obligations.DetectorMovesByUpdateOnly := by
  intro s hrst hc
  have hstep := (step_after s 0).1
  obtain ⟨hvalue, hunstable, hedge, hpress, hfired, hpending, hcount⟩ :=
    DetectorRegs.mk.inj (step_detector_of_no_update hrst hc hstep)
  exact ⟨_, hstep, hvalue, hunstable, hedge, hpress, hfired, fun hne => hpending.trans (if_neg hne),
    fun hne => hcount.trans (if_neg hne)⟩

/-! ### The ports a cycle reads (R74, U14) -/

/-- A command reads `btn_raw` and the tick if it is UPDATE, and no other port. -/
theorem exec_withInputs_congr {i : Instr} {s t : State} {xs : List PortIn} (h : exec i s = .next t)
    (hs : i = .update → (s.withInputs xs).raw = s.raw ∧ (s.withInputs xs).now = s.now) :
    exec i (s.withInputs xs) = .next (t.withInputs xs) := by
  rcases exec_cases h with ⟨rfl, rfl⟩ | ⟨rfl | ⟨p, v, rfl⟩, rfl⟩ | ⟨p, j, v, rfl, hj, rfl⟩ | ⟨p, rfl, hb, rfl⟩ |
    ⟨p, rfl, hb, rfl⟩ | ⟨rfl, rfl⟩ | ⟨rfl, rfl⟩ | ⟨rfl, rfl⟩ | ⟨rfl, rfl⟩ | ⟨rfl, rfl⟩
  case inr.inr.inl => exact exec_wbuf_of_ne p v _ hj
  case inr.inr.inr.inl => exact exec_tx_busy p hb
  case inr.inr.inr.inr.inl => exact exec_tx_idle p hb
  case inr.inr.inr.inr.inr.inl =>
    obtain ⟨hraw, hnow⟩ := hs rfl
    have hd : (s.withInputs xs).debounce = s.debounce := by rw [State.debounce, hraw, hnow]; rfl
    have hg : (s.withInputs xs).gesture = s.gesture := by rw [State.gesture, hd, hnow]; rfl
    rw [exec_update, hd, hg]
    rfl
  all_goals rfl

/-- A cycle without reset reads the command and what it samples, and no other port. -/
theorem step_withInputs_congr {s t : State} {xs : List PortIn} (hrst : s.input.rst = false)
    (hrst' : (s.withInputs xs).input.rst = false) (hc : (s.withInputs xs).command = s.command)
    (hs : s.command = some .update → (s.withInputs xs).raw = s.raw ∧ (s.withInputs xs).now = s.now)
    (h : step s = .next t) : step (s.withInputs xs) = .next (t.withInputs xs.tail) := by
  rcases step_cases s with ⟨hr, -⟩ | ⟨-, hn, h'⟩ | ⟨-, i, u, hi, he, h'⟩
  · simp [hrst] at hr
  · obtain rfl : _ = t := Host.Outcome.next.inj (h'.symm.trans h)
    simp [step_no_command hrst' (hc.trans hn)]
  · obtain rfl : _ = t := Host.Outcome.next.inj (h'.symm.trans h)
    have he' := exec_withInputs_congr (s := s.quiet) he fun hupdate => hs (hi.trans (congrArg some hupdate))
    simp [step_command (hc.trans hi) he']

/-- Settles O10: the ports of the one cycle replaced by those of the other, which no later state holds. -/
theorem unsampledPortsDoNotMatter : Obligations.UnsampledPortsDoNotMatter := by
  intro s x y hx hy hc hs
  have hstep : step (s.present x) = .next ((s.present x).after 1) := (step_after (s.present x) 0).1
  have hinputs : ((s.present x).after 1).inputs = s.inputs.tail := (s.present x).after_inputs 1
  calc step (s.present x)
    _ = .next (((s.present x).after 1).withInputs s.inputs.tail) := by rw [hstep, ← hinputs]; rfl
    _ = step (s.present y) := (step_withInputs_congr (s := s.present x) (xs := y :: s.inputs.tail) hx hy hc.symm
        (fun hupdate => (hs hupdate).imp Eq.symm Eq.symm) hstep).symm

/-! ### A pulse shorter than the window (R77) -/

/-- Where a run stands in a short pulse: the stable value is the old one, and either no UPDATE has been executed and the
filter is stable, or the filter has been unstable since the tick `t0`. -/
def State.withinPulse (s : State) (t0 k : Nat) : Prop :=
  (s.after k).value = s.value ∧
    (((s.after k).unstable = false ∧ ∀ j < k, (s.after j).command ≠ some .update) ∨
      ((s.after k).unstable = true ∧ (s.after k).tEdge = t0))

section
variable {s : State} {t0 k : Nat}

/-- An UPDATE of the pulse: the first makes the filter unstable at `t0`, a later one is inside the window. -/
theorem State.withinPulse_update (h : s.withinPulse t0 k) (hc : (s.after k).command = some .update)
    (hraw : (s.after k).raw ≠ s.value) (hw : tickDiff s.params (s.after k).now t0 < s.params.debounceMs)
    (hfirst : (∀ j < k, (s.after j).command ≠ some .update) → (s.after k).now = t0) : s.withinPulse t0 (k + 1) := by
  obtain ⟨hv, hstate⟩ := h
  obtain ⟨hvalue, hunstable, hedge⟩ := step_filter_of_update hc (step_after s k).1
  rw [← hv] at hraw
  suffices hd : (s.after k).debounce = ⟨(s.after k).value, true, t0, false⟩ by
    rw [hd] at hvalue hunstable hedge
    exact ⟨hvalue.trans hv, .inr ⟨hunstable, hedge⟩⟩
  rcases hstate with ⟨hu, hnone⟩ | ⟨hu, rfl⟩
  · rw [State.debounce_first_new_level hu hraw, hfirst hnone]
  · exact State.debounce_within_window hu hraw (by rwa [State.after_params])

/-- Any other cycle of the run leaves the filter as it is. -/
theorem State.withinPulse_no_update (h : s.withinPulse t0 k) (hrst : (s.inputAt k).rst = false)
    (hc : (s.after k).command ≠ some .update) : s.withinPulse t0 (k + 1) := by
  obtain ⟨hv, hstate⟩ := h
  have hd := step_detector_of_no_update ((s.after_input k).symm ▸ hrst) hc (step_after s k).1
  obtain ⟨hvalue, hunstable, hedge, -⟩ := DetectorRegs.mk.inj hd
  refine ⟨hvalue.trans hv, hstate.imp (fun ⟨hu, hnone⟩ => ⟨hunstable.trans hu, fun j hj => ?_⟩)
    fun ⟨hu, ht⟩ => ⟨hunstable.trans hu, hedge.trans ht⟩⟩
  rcases Nat.lt_succ_iff_lt_or_eq.1 hj with hlt | rfl
  · exact hnone j hlt
  · exact hc

end

/-- Settles O33, by induction on the cycles of the pulse; the UPDATE that ends it samples the old level, which leaves
the value alone and makes the filter stable. -/
theorem shortPulseNeverRegisters : Obligations.ShortPulseNeverRegisters := by
  intro s n t0 hu hreset hpulse hfirst hlast hraw
  have hall : ∀ k ≤ n, s.withinPulse t0 k := by
    intro k
    induction k with
    | zero => exact fun _ => ⟨rfl, .inl ⟨hu, fun j hj => absurd hj j.not_lt_zero⟩⟩
    | succ k ih =>
      intro hk
      by_cases hc : (s.after k).command = some .update
      · obtain ⟨hlevel, hw⟩ := hpulse k hk hc
        exact State.withinPulse_update (ih (by omega)) hc hlevel hw (hfirst k hk hc)
      · exact State.withinPulse_no_update (ih (by omega)) (hreset k (by omega)) hc
  have hvalues (k : Nat) (hk : k ≤ n) : (s.after k).value = s.value := (hall k hk).1
  obtain ⟨hvalue, hunstable, -⟩ := step_filter_of_update hlast (step_after s n).1
  rw [State.debounce_same_level (hraw.trans (hvalues n le_rfl).symm)] at hvalue hunstable
  refine ⟨fun k hk => ?_, hunstable⟩
  rcases Nat.le_succ_iff.1 hk with hle | rfl
  · exact hvalues k hle
  · exact hvalue.trans (hvalues n le_rfl)

/-! ### The filter that restarts its timer (R78, log 14) -/

section
variable {P : Params} {v last raw : Bool} {since now : Nat}

theorem RestartFilter.update_stable_same (h : raw = v) :
    (⟨v, false, last, since⟩ : RestartFilter).update P raw now = (⟨v, false, last, since⟩, false) := by
  simp [RestartFilter.update, h]

theorem RestartFilter.update_stable_new (h : raw ≠ v) :
    (⟨v, false, last, since⟩ : RestartFilter).update P raw now = (⟨v, true, raw, now⟩, false) := by
  simp [RestartFilter.update, h]

theorem RestartFilter.update_restarts (h : raw ≠ last) :
    (⟨v, true, last, since⟩ : RestartFilter).update P raw now = (⟨v, true, raw, now⟩, false) := by
  simp [RestartFilter.update, h]

theorem RestartFilter.update_settles (hw : P.debounceMs ≤ tickDiff P now since) :
    (⟨v, true, raw, since⟩ : RestartFilter).update P raw now = (⟨raw, false, raw, since⟩, raw != v) := by
  simp [RestartFilter.update, hw]

theorem RestartFilter.update_waits (hw : tickDiff P now since < P.debounceMs) :
    (⟨v, true, raw, since⟩ : RestartFilter).update P raw now = (⟨v, true, raw, since⟩, false) := by
  simp [RestartFilter.update, Nat.not_le.2 hw]

end

/-- How the filter of R75 and the one that restarts its timer stand to each other: with one stable value, both stable, or
both timing the other level from the same tick, or the second still timing the old level, at which the first is stable
already. -/
inductive FiltersAgree : DebounceResult → RestartFilter → Prop
  | bothStable (v : Bool) (t : Nat) (e last : Bool) (since : Nat) :
      FiltersAgree ⟨v, false, t, e⟩ ⟨v, false, last, since⟩
  | bothTiming {v last : Bool} (t : Nat) (e : Bool) (h : last ≠ v) : FiltersAgree ⟨v, true, t, e⟩ ⟨v, true, last, t⟩
  | timingOldLevel (v : Bool) (t : Nat) (e : Bool) (since : Nat) : FiltersAgree ⟨v, false, t, e⟩ ⟨v, true, v, since⟩

theorem FiltersAgree.value_eq {f : DebounceResult} {g : RestartFilter} (h : FiltersAgree f g) : f.value = g.value := by
  cases h <;> rfl

/-- One UPDATE keeps the two filters so, and they find the same edge. -/
theorem FiltersAgree.update {P : Params} {f : DebounceResult} {g : RestartFilter} (h : FiltersAgree f g) (raw : Bool)
    (now : Nat) : FiltersAgree (spikeFilter P f raw now) (g.update P raw now).1 ∧
      (spikeFilter P f raw now).edge = (g.update P raw now).2 := by
  cases h with
  | bothStable v t e last since =>
    by_cases hr : raw = v
    · rw [spikeFilter, debounceStage_stable_same P t now hr, RestartFilter.update_stable_same hr]
      exact ⟨.bothStable .., rfl⟩
    · rw [spikeFilter, debounceStage_stable_new P t now hr, RestartFilter.update_stable_new hr]
      exact ⟨.bothTiming _ _ hr, rfl⟩
  | @bothTiming v last t e hl =>
    by_cases hr : raw = v
    · subst hr
      rw [spikeFilter, debounceStage_unstable_back P t now rfl, RestartFilter.update_restarts hl.symm]
      exact ⟨.timingOldLevel .., rfl⟩
    · obtain rfl : raw = last := (Bool.eq_not.2 hr).trans (Bool.eq_not.2 hl).symm
      rcases Nat.lt_or_ge (tickDiff P now t) P.debounceMs with hw | hw
      · rw [spikeFilter, debounceStage_waits hr hw, RestartFilter.update_waits hw]
        exact ⟨.bothTiming _ _ hr, rfl⟩
      · rw [spikeFilter, debounceStage_accepts hr hw, RestartFilter.update_settles hw]
        exact ⟨.bothStable .., (bne_iff_ne.2 hr).symm⟩
  | timingOldLevel v t e since =>
    by_cases hr : raw = v
    · subst hr
      rw [spikeFilter, debounceStage_stable_same P t now rfl]
      rcases Nat.lt_or_ge (tickDiff P now since) P.debounceMs with hw | hw
      · rw [RestartFilter.update_waits hw]
        exact ⟨.timingOldLevel .., rfl⟩
      · rw [RestartFilter.update_settles hw]
        exact ⟨.bothStable .., (bne_self_eq_false raw).symm⟩
    · rw [spikeFilter, debounceStage_stable_new P t now hr, RestartFilter.update_restarts hr]
      exact ⟨.bothTiming _ _ hr, rfl⟩

theorem FiltersAgree.foldl {P : Params} {f : DebounceResult} {g : RestartFilter} (h : FiltersAgree f g)
    (samples : List (Bool × Nat)) :
    FiltersAgree (samples.foldl (fun f r => spikeFilter P f r.1 r.2) f)
      (samples.foldl (fun g r => (g.update P r.1 r.2).1) g) := by
  induction samples generalizing f g with
  | nil => exact h
  | cons r samples ih => exact ih (h.update r.1 r.2).1

/-- Settles O34: the relation holds at the start and every sample keeps it. -/
theorem restartingFilterAgrees : Obligations.RestartingFilterAgrees := by
  intro P x t0 t1 last samples raw now _
  have hagree := (FiltersAgree.bothStable x t0 false last t1).foldl (P := P) samples
  obtain ⟨hnext, hedge⟩ := hagree.update (P := P) raw now
  exact ⟨hagree.value_eq, hnext.value_eq, hedge⟩

/-! ### RD_VALUE (R79) -/

theorem State.valueWord_toNat (s : State) :
    s.valueWord.toNat = s.value.toNat + 2 * (if s.value = s.params.pressedLevel then 1 else 0) := by
  rw [State.valueWord, State.pressed]
  cases s.value <;> cases s.params.pressedLevel <;> rfl

theorem decode_eq_rdValue_iff {w : CmdWord} : decode w = .rdValue ↔ CmdWord.op w = 4#3 := by
  refine ⟨fun h => ?_, fun ho => by simp [decode, ho]⟩
  have hcases := decode_cases w
  simpa [h] using hcases

/-- Settles O35, from the word of the opcode and the two bits of the response. -/
theorem rdValueReturnsLevel : Obligations.RdValueReturnsLevel :=
  ⟨fun _ => decode_eq_rdValue_iff, fun s => ⟨_, exec_rdValue s, s.valueWord_toNat, rfl⟩⟩

end Sys2Proof.Machine
end

section
/-! PROOFS. UPDATE's second stage and what it makes of a press (spec/43_gesture_classifier.md R81 to R87): the stage branch
by branch, what a cycle without reset can do while the button is pressed, the long-press latch along a press, and the two
reads that clear. -/

namespace Sys2Proof

/-! ### The opcode of a command without operands (R52) -/

/-- A word and the word of its command have one opcode. -/
theorem op_encode_decode (w : CmdWord) : CmdWord.op (encode (decode w)) = CmdWord.op w := by
  rcases decode_cases w with ⟨ho, h⟩ | ⟨ho, -, h⟩ | ⟨ho, -, h⟩ | ⟨ho, h⟩ | ⟨ho, h⟩ | ⟨ho, h⟩ | ⟨ho, h⟩ | ⟨ho, h⟩ | ⟨ho, h⟩
  all_goals rw [h, ho]; exact (pack_fields ..).1

/-- The words of a command other than WBUF and TX are those with its opcode. -/
theorem decode_eq_iff_op {i : Instr} {w : CmdWord} (hwf : i.wf = true) (hwbuf : CmdWord.op (encode i) ≠ 1#3)
    (htx : CmdWord.op (encode i) ≠ 2#3) : decode w = i ↔ CmdWord.op w = CmdWord.op (encode i) := by
  refine ⟨fun h => ?_, fun hop => ?_⟩
  · rw [← op_encode_decode w, h]
  · rw [decode_eq_of_op hop hwbuf htx, decode_encode hwf]

end Sys2Proof

namespace Sys2Proof.Machine

/-! ### The gesture stage of a state, branch by branch (R82) -/

theorem State.debounce_edge_iff (s : State) : s.debounce.edge = true ↔ s.debounce.value ≠ s.value :=
  debounceStage_edge_iff ..

theorem State.debounce_no_edge {s : State} (h : s.debounce.value = s.value) : s.debounce.edge = false :=
  Bool.eq_false_iff.2 fun hedge => s.debounce_edge_iff.1 hedge h

section
variable {s : State}

theorem State.gesture_press (hc : s.debounce.value ≠ s.value) (hv : s.debounce.value = s.params.pressedLevel) :
    s.gesture = ⟨s.now, false, s.longPending, s.shortCount⟩ := by
  rw [State.gesture, s.debounce_edge_iff.2 hc, gestureStage_press _ _ _ _ _ _ hv]

theorem State.gesture_release_late (hc : s.debounce.value ≠ s.value) (hv : s.debounce.value ≠ s.params.pressedLevel)
    (hf : s.longFired = false) (hl : s.params.longMs < s.held) :
    s.gesture = ⟨s.tPress, false, true, s.shortCount⟩ := by
  rw [State.gesture, s.debounce_edge_iff.2 hc, hf, gestureStage_release_late _ _ hv hl]

theorem State.gesture_release_short (hc : s.debounce.value ≠ s.value) (hv : s.debounce.value ≠ s.params.pressedLevel)
    (hf : s.longFired = false) (hl : s.held ≤ s.params.longMs) :
    s.gesture = ⟨s.tPress, false, s.longPending, satInc s.params s.shortCount⟩ := by
  rw [State.gesture, s.debounce_edge_iff.2 hc, hf, gestureStage_release_short _ _ hv hl]

theorem State.gesture_release_fired (hc : s.debounce.value ≠ s.value) (hv : s.debounce.value ≠ s.params.pressedLevel)
    (hf : s.longFired = true) : s.gesture = ⟨s.tPress, false, s.longPending, s.shortCount⟩ := by
  rw [State.gesture, s.debounce_edge_iff.2 hc, hf, gestureStage_release_fired _ _ _ _ _ hv]

theorem State.gesture_fires (hc : s.debounce.value = s.value) (hv : s.debounce.value = s.params.pressedLevel)
    (hf : s.longFired = false) (hl : s.params.longMs < s.held) : s.gesture = ⟨s.tPress, true, true, s.shortCount⟩ := by
  rw [State.gesture, State.debounce_no_edge hc, hf, gestureStage_fires _ _ hv hl]

theorem State.gesture_rests (hc : s.debounce.value = s.value)
    (h : s.debounce.value ≠ s.params.pressedLevel ∨ s.longFired = true ∨ s.held ≤ s.params.longMs) :
    s.gesture = ⟨s.tPress, s.longFired, s.longPending, s.shortCount⟩ := by
  rw [State.gesture, State.debounce_no_edge hc, gestureStage_rests _ _ h]

/-- Every edge re-arms the latch (R85). -/
theorem State.gesture_longFired_of_change (hc : s.debounce.value ≠ s.value) : s.gesture.longFired = false := by
  by_cases hv : s.debounce.value = s.params.pressedLevel
  · rw [State.gesture_press hc hv]
  · cases hf : s.longFired with
    | true => rw [State.gesture_release_fired hc hv hf]
    | false =>
      rcases Nat.lt_or_ge s.params.longMs s.held with hl | hl
      · rw [State.gesture_release_late hc hv hf hl]
      · rw [State.gesture_release_short hc hv hf hl]

/-- While the latch is set the event is not made pending (R84, R87). -/
theorem State.gesture_longPending_of_fired (hf : s.longFired = true) : s.gesture.longPending = s.longPending := by
  by_cases hc : s.debounce.value = s.value
  · rw [State.gesture_rests hc (.inr (.inl hf))]
  · by_cases hv : s.debounce.value = s.params.pressedLevel
    · rw [State.gesture_press hc hv]
    · rw [State.gesture_release_fired hc hv hf]

/-- No branch takes the event back (R85). -/
theorem State.gesture_longPending_of_pending (hp : s.longPending = true) : s.gesture.longPending = true := by
  rw [State.gesture, hp]
  rcases gestureStage_cases s.params s.debounce.value s.debounce.edge s.tPress s.longFired true s.shortCount s.now with
    ⟨-, -, h⟩ | ⟨-, -, -, -, h⟩ | ⟨-, -, -, -, h⟩ | ⟨-, -, -, h⟩ | ⟨-, -, -, -, h⟩ | ⟨-, -, h⟩
  all_goals rw [h]

end

/-- Settles O36, one branch of the stage after the other; the stable value changes at an edge. -/
theorem gestureStageOfUpdate : Obligations.GestureStageOfUpdate := by
  intro s
  refine ⟨_, exec_update s, fun hc hv => ?_, fun hc hv => ?_, fun hc hv hf hl => ?_, fun hc h => ?_⟩
  · rw [State.setDetector_value] at hc hv
    simp [State.gesture_press hc hv]
  · rw [State.setDetector_value] at hc hv
    cases hf : s.longFired with
    | true => simp [State.gesture_release_fired hc hv hf]
    | false =>
      rcases Nat.lt_or_ge s.params.longMs s.held with hl | hl
      · have hnot : ¬tickDiff s.params s.now s.tPress ≤ s.params.longMs := Nat.not_le.2 hl
        simp [State.gesture_release_late hc hv hf hl, hnot]
      · have hnot : ¬s.params.longMs < tickDiff s.params s.now s.tPress := Nat.not_lt.2 hl
        simp [State.gesture_release_short hc hv hf hl, hnot, satInc]
  · simp [State.gesture_fires hc hv hf hl]
  · simp [State.gesture_rests hc h]

/-! ### The gesture registers in one cycle -/

theorem step_params {s t : State} (h : step s = .next t) : t.params = s.params := by
  obtain ⟨h', hparams, -⟩ := step_after s 0
  exact Host.Outcome.next.inj (h'.symm.trans h) ▸ hparams

/-- A cycle with an UPDATE leaves the latch, the event and the count as its gesture stage does. -/
theorem step_gesture_of_update {s t : State} (hc : s.command = some .update) (h : step s = .next t) :
    t.longFired = s.gesture.longFired ∧ t.longPending = s.gesture.longPending ∧
      t.shortCount = s.gesture.shortCount := by
  obtain rfl : _ = t := Host.Outcome.next.inj ((step_command hc (exec_update s.quiet)).symm.trans h)
  simp

theorem State.pressed_iff (s : State) : s.pressed = true ↔ s.value = s.params.pressedLevel := beq_iff_eq

theorem State.fires_iff_of_update {s : State} (hc : s.command = some .update) (hp : s.pressed = true) :
    s.fires ↔ s.params.longMs < s.held ∧ s.longFired = false := by
  simp [State.fires, State.findsLong, hc, hp]

/-- What a cycle without reset can do to the gesture registers while the button is pressed. -/
inductive PressCycle (s t : State) : Prop
  /-- The event fires, and the latch keeps that unless the press ends in this very cycle (R84). -/
  | fires (event : s.fires) (latch : t.longFired = t.pressed) (pending : t.longPending = true)
      (count : t.shortCount = s.shortCount)
  /-- The button stays pressed and nothing is noticed; the two reads may clear what they return (R86, R87). -/
  | lasts (noEvent : ¬s.fires) (held : t.pressed = true) (latch : t.longFired = s.longFired)
      (pending : s.longPending = false → t.longPending = false)
      (count : s.command ≠ some .rdShort → t.shortCount = s.shortCount)
  /-- The press ends, and counts as short unless the event has fired in it (R83). -/
  | ends (noEvent : ¬s.fires) (released : t.pressed = false) (pending : t.longPending = s.longPending)
      (count : t.shortCount = if s.longFired = true then s.shortCount else satInc s.params s.shortCount)

section
variable {s t : State} (hp : s.pressed = true) (h : step s = .next t)
include hp h

theorem PressCycle.of_held_update (hc : s.command = some .update) (hsame : s.debounce.value = s.value) :
    PressCycle s t := by
  have hfires := State.fires_iff_of_update hc hp
  have hlevel : s.debounce.value = s.params.pressedLevel := hsame.trans (s.pressed_iff.1 hp)
  obtain ⟨hv, -, -⟩ := step_filter_of_update hc h
  obtain ⟨hlatch, hpending, hcount⟩ := step_gesture_of_update hc h
  have htp : t.pressed = true := by rw [State.pressed_iff, hv, step_params h, hlevel]
  by_cases hlong : s.params.longMs < s.held ∧ s.longFired = false
  · rw [State.gesture_fires hsame hlevel hlong.2 hlong.1] at hlatch hpending hcount
    exact .fires (hfires.2 hlong) (hlatch.trans htp.symm) hpending hcount
  · have hrests : s.longFired = true ∨ s.held ≤ s.params.longMs := by
      rwa [not_and_or, Nat.not_lt, Bool.not_eq_false, or_comm] at hlong
    rw [State.gesture_rests hsame (.inr hrests)] at hlatch hpending hcount
    exact .lasts (hlong ∘ hfires.1) htp hlatch hpending.trans fun _ => hcount

theorem PressCycle.of_release (hc : s.command = some .update) (hedge : s.debounce.value ≠ s.value) :
    PressCycle s t := by
  have hfires := State.fires_iff_of_update hc hp
  have hlevel : s.debounce.value ≠ s.params.pressedLevel := s.pressed_iff.1 hp ▸ hedge
  obtain ⟨hv, -, -⟩ := step_filter_of_update hc h
  obtain ⟨hlatch, hpending, hcount⟩ := step_gesture_of_update hc h
  have htp : t.pressed = false := by rwa [← Bool.not_eq_true, State.pressed_iff, hv, step_params h]
  cases hf : s.longFired with
  | true =>
    rw [State.gesture_release_fired hedge hlevel hf] at hpending hcount
    exact .ends (by simp [hfires, hf]) htp hpending (by simp [hcount, hf])
  | false =>
    rcases Nat.lt_or_ge s.params.longMs s.held with hl | hl
    · rw [State.gesture_release_late hedge hlevel hf hl] at hlatch hpending hcount
      exact .fires (hfires.2 ⟨hl, hf⟩) (hlatch.trans htp.symm) hpending hcount
    · rw [State.gesture_release_short hedge hlevel hf hl] at hpending hcount
      exact .ends (by simp [hfires, hl]) htp hpending (by simp [hcount, hf])

theorem PressCycle.of_step (hrst : s.input.rst = false) : PressCycle s t := by
  by_cases hc : s.command = some .update
  · by_cases hsame : s.debounce.value = s.value
    · exact .of_held_update hp h hc hsame
    · exact .of_release hp h hc hsame
  · obtain ⟨(hv : t.value = s.value), -, -, -, hlatch, hpending, hcount⟩ :=
      DetectorRegs.mk.inj (step_detector_of_no_update hrst hc h)
    have htp : t.pressed = true := by rwa [State.pressed_iff, hv, step_params h, ← State.pressed_iff]
    refine .lasts (fun hf => hc hf.1.1) htp hlatch (fun hnone => ?_) fun hread => hcount.trans (if_neg hread)
    rw [hpending, hnone, ite_self]

end

/-! ### A press, from its edge on (R83, R84) -/

section
variable {s : State} {n : Nat} (hfired : s.longFired = false) (hreset : s.noReset n)
  (hpressed : ∀ k < n, (s.after k).pressed = true)
include hreset hpressed

theorem PressCycle.after {k : Nat} (hk : k < n) : PressCycle (s.after k) (s.after (k + 1)) :=
  .of_step (hpressed k hk) (step_after s k).1 ((s.after_input k).symm ▸ hreset k hk)

include hfired

/-- While the press lasts the latch says whether the event has fired in it. -/
theorem State.longFired_after_iff : ∀ k < n, (s.after k).longFired = true ↔ ∃ j < k, (s.after j).fires := by
  intro k
  induction k with
  | zero => simp [hfired]
  | succ k ih =>
    intro hk
    have hlast : (∃ j < k + 1, (s.after j).fires) ↔ (s.after k).longFired = true ∨ (s.after k).fires := by
      rw [Nat.exists_lt_succ_right, ih (by omega)]
    rw [hlast]
    cases PressCycle.after hreset hpressed (show k < n by omega) with
    | fires hf hlatch => simp [hlatch, hpressed (k + 1) hk, hf]
    | lasts hnot _ hlatch => simp [hlatch, hnot]
    | ends _ hreleased => simp [hpressed (k + 1) hk] at hreleased

/-- A cycle in which the event fires has none before it in the press. -/
theorem State.not_fires_before {k : Nat} (hk : k < n) (h : (s.after k).fires) : ∀ j < k, ¬(s.after j).fires := by
  intro j hj hfires
  have hlatch := (State.longFired_after_iff hfired hreset hpressed k hk).2 ⟨j, hj, hfires⟩
  simp [h.2] at hlatch

end

/-- Settles O37: the latch lets the event fire once, and an UPDATE that finds the press long without firing finds the
latch set by an earlier cycle that fired. -/
theorem longPressFiresOnce : Obligations.LongPressFiresOnce := by
  intro s n hfired hreset hpressed
  refine ⟨fun j hj k hk hfj hfk => ?_, ⟨fun ⟨k, hk, hf⟩ => ⟨k, hk, hf.1⟩, fun ⟨k, hk, hlong⟩ => ?_⟩,
    fun k hk hf => ?_, fun k hk hnot hnone => ?_⟩
  · rcases Nat.lt_trichotomy j k with hlt | heq | hgt
    · exact absurd hfj (State.not_fires_before hfired hreset hpressed hk hfk j hlt)
    · exact heq
    · exact absurd hfk (State.not_fires_before hfired hreset hpressed hj hfj k hgt)
  · cases hlatch : (s.after k).longFired with
    | false => exact ⟨k, hk, hlong, hlatch⟩
    | true =>
      obtain ⟨j, hj, hf⟩ := (State.longFired_after_iff hfired hreset hpressed k hk).1 hlatch
      exact ⟨j, hj.trans hk, hf⟩
  · cases PressCycle.after hreset hpressed hk with
    | fires _ _ hpending => exact hpending
    | lasts hnot => exact absurd hf hnot
    | ends hnot => exact absurd hf hnot
  · cases PressCycle.after hreset hpressed hk with
    | fires hf => exact absurd hf hnot
    | lasts _ _ _ hpending => exact hpending hnone
    | ends _ _ hpending => exact hpending.trans hnone

/-- The count stays up to the last cycle of a press without RD_SHORT. -/
theorem State.shortCount_after_of_pressed {s : State} {n : Nat} (hreset : s.noReset n)
    (hpressed : ∀ k ≤ n, (s.after k).pressed = true) (hread : ∀ k < n, (s.after k).command ≠ some .rdShort) :
    (s.after n).shortCount = s.shortCount := by
  refine State.after_induction (C := fun t => t.shortCount = s.shortCount) rfl (fun k hk ih => ?_) n le_rfl
  cases PressCycle.after hreset (fun j hj => hpressed j hj.le) hk with
  | fires _ _ _ hcount => exact hcount.trans ih
  | lasts _ _ _ _ hcount => exact (hcount (hread k hk)).trans ih
  | ends _ hreleased => simp [hpressed (k + 1) hk] at hreleased

/-- Settles O38: up to the last cycle the count stays and the latch remembers the event; the last cycle, the release edge,
counts the press if the latch is clear and the event does not fire in it. -/
theorem everyPressShortOrLong : Obligations.EveryPressShortOrLong := by
  intro s n hstart hfired hreset hpressed hread hend
  obtain ⟨m, rfl⟩ : ∃ m, n = m + 1 := Nat.exists_eq_succ_of_ne_zero fun hn => by simp [hn, hstart] at hend
  have hcount : (s.after m).shortCount = s.shortCount :=
    State.shortCount_after_of_pressed (fun k hk => hreset k (by omega)) (fun k hk => hpressed k (by omega))
      fun k hk => hread k (by omega)
  have hlatch := State.longFired_after_iff hfired hreset hpressed m m.lt_succ_self
  rw [Nat.exists_lt_succ_right, Nat.forall_lt_succ_right, ← hlatch]
  have hnone : (∀ k < m, ¬(s.after k).fires) ↔ ¬(s.after m).longFired = true := by simp [hlatch]
  rw [hnone]
  cases PressCycle.after hreset hpressed m.lt_succ_self with
  | fires hf _ _ hlast => exact ⟨fun ⟨_, hno⟩ => absurd hf hno, fun _ => hlast.trans hcount⟩
  | lasts _ hheld => simp [hend] at hheld
  | ends hnot _ _ hlast =>
    rw [hlast, hcount, State.after_params]
    exact ⟨fun ⟨hclear, _⟩ => if_neg hclear, fun hsome => if_pos (hsome.resolve_right hnot)⟩

/-! ### An event left unread (R85) -/

theorem step_keeps_longPending {s t : State} (hrst : s.input.rst = false) (hc : s.command ≠ some .rdLong)
    (hp : s.longPending = true) (h : step s = .next t) : t.longPending = true := by
  by_cases hu : s.command = some .update
  · obtain ⟨-, hpending, -⟩ := step_gesture_of_update hu h
    exact hpending.trans (State.gesture_longPending_of_pending hp)
  · obtain ⟨-, -, -, -, -, hpending, -⟩ := DetectorRegs.mk.inj (step_detector_of_no_update hrst hu h)
    rw [hpending, if_neg hc, hp]

theorem step_longFired_of_change {s t : State} (hrst : s.input.rst = false) (hne : t.value ≠ s.value)
    (h : step s = .next t) : t.longFired = false := by
  by_cases hu : s.command = some .update
  · obtain ⟨hv, -, -⟩ := step_filter_of_update hu h
    obtain ⟨hfired, -, -⟩ := step_gesture_of_update hu h
    exact hfired.trans (State.gesture_longFired_of_change (hv ▸ hne))
  · obtain ⟨hv, -⟩ := DetectorRegs.mk.inj (step_detector_of_no_update hrst hu h)
    exact absurd hv hne

/-- Settles O39: every cycle but those of RD_LONG and of reset keeps the event, and an edge clears the latch. -/
theorem unreadEventSurvives : Obligations.UnreadEventSurvives := by
  refine ⟨fun s n hp hreset hread => ?_, fun s => ⟨_, (step_after s 0).1, fun hrst hne => ?_⟩⟩
  · refine State.after_induction (C := fun t => t.longPending = true) hp (fun k hk ih => ?_) n le_rfl
    exact step_keeps_longPending ((s.after_input k).symm ▸ hreset k hk) (hread k hk) ih (step_after s k).1
  · exact step_longFired_of_change hrst hne (step_after s 0).1

/-! ### The reads that clear (R86, R87) -/

/-- Settles O40: the state RD_SHORT answers holds the count 0, which a second read returns. -/
theorem rdShortReturnsAndClears : Obligations.RdShortReturnsAndClears :=
  ⟨fun _ => decode_eq_iff_op rfl (by decide) (by decide), fun s => ⟨_, exec_rdShort s, rfl, _, exec_rdShort _, rfl⟩⟩

/-- Settles O41: RD_LONG leaves the latch, under which no UPDATE makes the event pending. -/
theorem rdLongReturnsAndClears : Obligations.RdLongReturnsAndClears := by
  refine ⟨fun _ => decode_eq_iff_op rfl (by decide) (by decide), fun s => ⟨_, exec_rdLong s, ?_, ⟨_, exec_rdLong _, rfl⟩,
    fun hf => ⟨_, exec_update _, State.gesture_longPending_of_fired hf⟩⟩⟩
  cases s.longPending <;> rfl

end Sys2Proof.Machine
end

section
/-! PROOFS. The system commands and the cycle as a whole (spec/44_system_ops.md R89 to R92): a run that never stops, the
frame of the engine's step, the response port of a cycle, and STATUS as a number. -/

namespace Sys2Proof.Machine

/-! ### The block never stops (R91) -/

theorem run_succ_of_next {M : Host.Core} {s t : M.State} (h : M.step s = .next t) (n : Nat) :
    M.run (n + 1) s = M.run n t := by
  rw [Host.Core.run, h]

/-- Settles O8, by induction on the length of the run: its first cycle has a next state, and the others are a run from
there. -/
theorem blockNeverStops : Obligations.BlockNeverStops := by
  intro n
  induction n with
  | zero => exact fun _ => rfl
  | succ n ih =>
    intro s
    have hfirst : Sys2Proof.core.step s = .next (s.after 1) := (step_after s 0).1
    rw [run_succ_of_next hfirst n, Nat.add_comm, State.after_add]
    exact ih (s.after 1)

/-! ### The step as a whole (R91) -/

/-- The engine writes `shreg`, `ph`, `bitcnt`, `cyc`, `gapcnt` and no other field (R65). -/
theorem engineStep_frame (s t : State) :
    engineStep s t = { t with shreg := (engineStep s t).shreg, ph := (engineStep s t).ph, bitcnt := (engineStep s t).bitcnt
                              cyc := (engineStep s t).cyc, gapcnt := (engineStep s t).gapcnt } := by
  cases hph : s.ph with
  | idle => rw [engineStep_idle hph]
  | bits =>
    by_cases hcyc : s.cyc + 1 = s.params.tbitCyc
    · by_cases hbit : s.bitcnt = 23
      · rw [engineStep_last_bit hph hcyc hbit]
      · rw [engineStep_next_bit hph hcyc hbit]
    · rw [engineStep_within_bit hph hcyc]
  | gap =>
    by_cases hgap : s.gapcnt + 1 = s.params.gapCyc
    · rw [engineStep_end_gap hph hgap]
    · rw [engineStep_within_gap hph hgap]

/-- The command of a cycle is run beside the engine's step. -/
theorem step_runs_command {s : State} {i : Instr} (hc : s.command = some i) :
    step s = onNext (exec i s.quiet) (fun t => (engineStep s t).nextCycle) := by
  obtain ⟨t, hexec, -⟩ := exec_next i s.quiet
  rw [step_command hc hexec, hexec, onNext]

/-- Settles O6: the cases of a cycle, and that a TX, the one command that writes the engine's registers, is accepted in
IDLE only. -/
theorem stepRunsDecodedCommand : Obligations.StepRunsDecodedCommand := by
  refine ⟨fun _ => step_reset, fun s hrst hvalid => step_runs_command (State.command_eq_some.2 ⟨hrst, hvalid, rfl⟩),
    fun s hrst hvalid => step_no_command hrst (State.command_of_invalid hvalid), fun s => ⟨_, (step_after s 0).1⟩,
    fun i s hbusy => ?_, fun _ t hidle => engineStep_idle hidle t, fun s t => ⟨_, rfl, engineStep_frame s t⟩⟩
  obtain ⟨t, hexec, -⟩ := exec_next i s
  rcases exec_engine hexec with hsame | ⟨-, -, hidle, -⟩
  · exact ⟨t, hexec, hsame⟩
  · exact absurd (s.not_busy_iff.1 hidle) hbusy

/-! ### NOP (R89) -/

/-- A cycle without a command takes nothing from the ports (R50). -/
theorem engineStep_present_quiet (s : State) (x : PortIn) :
    (engineStep (s.present x) (s.present x).quiet).nextCycle = (engineStep s s.quiet).nextCycle := by
  change (engineStep s (s.quiet.withInputs (x :: s.inputs.tail))).nextCycle = _
  rw [engineStep_withInputs]
  simp [State.withInputs, State.nextCycle]

/-- Settles O9: both cycles end in the engine's own step on the quiet state, whose frame is the engine's. -/
theorem nopLikeNoCommand : Obligations.NopLikeNoCommand := by
  refine ⟨fun _ => decode_eq_iff_op rfl (by decide) (by decide), exec_nop, fun s x y hx hy hvalid hnop hinvalid =>
    ⟨(engineStep s s.quiet).nextCycle, ?_, ?_, congrArg State.nextCycle (engineStep_frame s s.quiet)⟩⟩
  · have hcommand : (s.present x).command = some .nop := State.command_eq_some.2 ⟨hx, hvalid, hnop⟩
    rw [step_command hcommand (exec_nop _), engineStep_present_quiet]
  · rw [step_present_no_command s hinvalid, hy]
    rfl

/-! ### The response port (R92) -/

/-- A command other than the four reads leaves the response port alone. -/
theorem exec_silent {i : Instr} {s t : State} (h : exec i s = .next t) (hvalue : i ≠ .rdValue) (hshort : i ≠ .rdShort)
    (hlong : i ≠ .rdLong) (hstatus : i ≠ .rdStatus) : t.rspValid = s.rspValid ∧ t.rspData = s.rspData := by
  rcases exec_cases h with ⟨-, rfl⟩ | ⟨-, rfl⟩ | ⟨p, j, v, -, -, rfl⟩ | ⟨p, -, -, rfl⟩ | ⟨p, -, -, rfl⟩ | ⟨-, rfl⟩ |
    ⟨hi, -⟩ | ⟨hi, -⟩ | ⟨hi, -⟩ | ⟨hi, -⟩
  case inr.inr.inr.inr.inr.inr.inl => exact absurd hi hvalue
  case inr.inr.inr.inr.inr.inr.inr.inl => exact absurd hi hshort
  case inr.inr.inr.inr.inr.inr.inr.inr.inl => exact absurd hi hlong
  case inr.inr.inr.inr.inr.inr.inr.inr.inr => exact absurd hi hstatus
  all_goals exact ⟨rfl, rfl⟩

/-- The response port of a cycle is what its command makes of it: the engine has no part in it. -/
theorem step_response {s t u : State} {i : Instr} (hc : s.command = some i) (he : exec i s.quiet = .next u)
    (h : step s = .next t) : t.rspValid = u.rspValid ∧ t.rspData = u.rspData := by
  obtain rfl : _ = t := Host.Outcome.next.inj ((step_command hc he).symm.trans h)
  simp

/-- Settles O11: each read by its own meaning, and silence by the cases of a cycle. -/
theorem responsePort : Obligations.ResponsePort := by
  intro s
  obtain ⟨t, hstep⟩ : ∃ t, step s = .next t := ⟨_, (step_after s 0).1⟩
  refine ⟨t, hstep, fun hc => step_response hc (exec_rdValue _) hstep, fun hc => step_response hc (exec_rdShort _) hstep,
    fun hc => step_response hc (exec_rdLong _) hstep, fun hc => step_response hc (exec_rdStatus _) hstep,
    fun hvalue hshort hlong hstatus => ?_⟩
  rcases step_cases s with ⟨-, h⟩ | ⟨-, -, h⟩ | ⟨-, i, u, hi, he, -⟩
  · obtain rfl := Host.Outcome.next.inj (h.symm.trans hstep)
    exact ⟨rfl, rfl⟩
  · obtain rfl := Host.Outcome.next.inj (h.symm.trans hstep)
    simp
  · rw [hi, Ne, Option.some_inj] at hvalue hshort hlong hstatus
    obtain ⟨hvalid, hdata⟩ := step_response hi he hstep
    obtain ⟨hvalid', hdata'⟩ := exec_silent he hvalue hshort hlong hstatus
    exact ⟨hvalid.trans hvalid', hdata.trans hdata'⟩

/-! ### RD_STATUS (R90) -/

/-- A flag appended below a word is its lowest bit. -/
theorem toNat_append_ofBool {n : Nat} (x : BitVec n) (b : Bool) : (x ++ BitVec.ofBool b).toNat = x.toNat * 2 + b.toNat :=
  BitVec.toNat_concat x b

/-- STATUS as a number: flag k counts `2^k` (R30). -/
theorem State.status_toNat (s : State) :
    s.status.toNat = s.value.toNat + 2 * s.unstable.toNat + 4 * s.busy.toNat + 8 * s.ovr.toNat + 16 * s.ill.toNat +
      32 * s.longFired.toNat + 64 * s.longPending.toNat + 128 * (if s.shortCount = 0 then 0 else 1) := by
  have hcount : (s.shortCount != 0).toNat = if s.shortCount = 0 then 0 else 1 := by
    by_cases h : s.shortCount = 0 <;> simp [h]
  simp only [State.status, toNat_append_ofBool, BitVec.toNat_ofBool, hcount]
  omega

/-- Settles O43, from the word of the opcode and STATUS as a number. -/
theorem rdStatusReturnsFlags : Obligations.RdStatusReturnsFlags :=
  ⟨fun _ => decode_eq_iff_op rfl (by decide) (by decide), fun s => ⟨_, exec_rdStatus s, s.status_toNat, rfl⟩⟩

end Sys2Proof.Machine
end

section
/-! PROOFS. The host's reset sequencer (spec/45_host_environment.md R100): what a poll does with a pulse. -/

namespace Sys2Proof.Machine

section
variable {P : Params} {h : HostData} {t now : Nat}

theorem HostData.pollReset_waits (ht : h.resetTimer = some t) (hd : tickDiff P now t ≤ resetPulseMs) :
    h.pollReset P now = (h, false) := by
  simp [HostData.pollReset, ht, Nat.not_lt.2 hd]

theorem HostData.pollReset_ends (ht : h.resetTimer = some t) (hd : resetPulseMs < tickDiff P now t) :
    h.pollReset P now = ({ h with resetTimer := none, resetOut := true }, true) := by
  simp [HostData.pollReset, ht, hd]

end

/-- Settles O53: the second trigger overwrites the tick of the first, and the poll measures from it. -/
theorem resetPulseRestarts : Obligations.ResetPulseRestarts := by
  intro P h t0 t1 d hd _ now pulsing
  have helapsed : tickDiff P now t1 = d := tickDiff_add_mod hd
  refine ⟨rfl, fun hle => HostData.pollReset_waits rfl (helapsed.trans_le hle), fun hlt => ?_⟩
  rw [HostData.pollReset_ends (t := t1) rfl (helapsed.symm ▸ hlt)]
  exact ⟨rfl, rfl, rfl⟩

end Sys2Proof.Machine
end

section
/-! PROOFS. The host's loop over the block (spec/45_host_environment.md R98 to R100). Between its frames the block is
idle and inside the invariant, and of its registers the loop turns on a few only, `HostView`. Each operation of the host
is one rule about that view, and an iteration is the rules in the order of R98. -/

namespace Sys2Proof.Machine

/-- What the loop turns on in a block: the button, the event, the two faults, and the three bytes of each buffer. -/
@[ext] structure HostView where
  params : Params
  pressed : Bool
  longPending : Bool
  ovr : Bool
  ill : Bool
  buffer : Pin → Byte × Byte × Byte

def State.view (s : State) : HostView where
  params := s.params
  pressed := s.pressed
  longPending := s.longPending
  ovr := s.ovr
  ill := s.ill
  buffer p := (s.readBuf p 0#2, s.readBuf p 1#2, s.readBuf p 2#2)

/-- The view after three bytes went to the buffer of `p`. -/
def HostView.put (v : HostView) (p : Pin) (b0 b1 b2 : Byte) : HostView :=
  { v with buffer := Function.update v.buffer p (b0, b1, b2) }

/-- The view after a colour went to the external LED, as G, R, B (R95). -/
def HostView.showExt (v : HostView) (c : Colour) : HostView := v.put v.params.pinExt c.g c.r c.b

/-- The view after a colour went to the onboard LED, as R, G, B (R95). -/
def HostView.showOnb (v : HostView) (c : Colour) : HostView := v.put v.params.pinOnb c.r c.g c.b

/-- The view after the event was read and answered with black and the resetting colour (R99). -/
def HostView.afterEvent (v : HostView) (resetting : Colour) : HostView :=
  ({ v with longPending := false }.showExt .black).showOnb resetting

/-- The view after an accepted colour: sent to the external LED where the button is released (R101). -/
def HostView.accept (v : HostView) (c : Colour) : HostView := if v.pressed then v else v.showExt c

@[simp] theorem HostView.accept_params (v : HostView) (c : Colour) : (v.accept c).params = v.params := by
  unfold HostView.accept; split <;> rfl
@[simp] theorem HostView.accept_ovr (v : HostView) (c : Colour) : (v.accept c).ovr = v.ovr := by
  unfold HostView.accept; split <;> rfl
@[simp] theorem HostView.accept_ill (v : HostView) (c : Colour) : (v.accept c).ill = v.ill := by
  unfold HostView.accept; split <;> rfl

/-- The colour that R98 gives the external LED. -/
def HostView.loopColour (v : HostView) (persistent : Colour) : Colour := if v.pressed then .red else persistent

/-- The block between two frames: idle, inside the invariant, and as the host sees it. -/
structure State.rests (s : State) (v : HostView) : Prop where
  inv : Inv s
  idle : s.ph = .idle
  view : s.view = v

section
variable {s : State} {v : HostView} {w : HostSystem} {e : HostSeen} {k : HostChoices}

/-! ### Cycles of the block -/

theorem Inv.runLines (h : Inv s) (raw : Bool) (now : Nat) (ls : List Line) : Inv (s.runLines raw now ls) :=
  (h.list raw now ls).after ls.length

@[simp] theorem State.view_nextCycle (s : State) : s.nextCycle.view = s.view := rfl
@[simp] theorem State.view_quiet (s : State) : s.quiet.view = s.view := rfl
@[simp] theorem State.view_respond (s : State) (x : Nat) : (s.respond x).view = s.view := rfl
@[simp] theorem State.view_list (s : State) (raw : Bool) (now : Nat) (ls : List Line) :
    (s.list raw now ls).view = s.view := rfl
@[simp] theorem State.view_setDetector (s : State) (d : DebounceResult) (g : GestureResult) : (s.setDetector d g).view =
    { s.view with pressed := d.value == s.params.pressedLevel, longPending := g.longPending } := rfl
@[simp] theorem State.view_clear_longPending (s : State) :
    State.view { s with longPending := false } = { s.view with longPending := false } := rfl

/-- The engine shows in no part of the view. -/
@[simp] theorem view_engineStep (s t : State) : (engineStep s t).view = t.view := by
  simp [State.view, State.pressed, State.readBuf]

/-- A cycle without a command leaves the view. -/
theorem State.view_runLines_idle (s : State) (raw : Bool) (now : Nat) :
    (s.runLines raw now [Line.idle]).view = s.view := by
  rw [State.runLines_idle]
  simp

theorem State.runLines_waitLines_succ (s : State) (raw : Bool) (now n : Nat) :
    s.runLines raw now (waitLines (n + 1)) = (s.runLines raw now [Line.idle]).runLines raw now (waitLines n) :=
  s.runLines_cons raw now Line.idle (waitLines n)

theorem State.view_runLines_waitLines (s : State) (raw : Bool) (now n : Nat) :
    (s.runLines raw now (waitLines n)).view = s.view := by
  induction n generalizing s with
  | zero => rfl
  | succ n ih => rw [s.runLines_waitLines_succ, ih, s.view_runLines_idle]

/-- An idle engine stays idle while the host sleeps. -/
theorem State.ph_runLines_waitLines (h : s.ph = .idle) (raw : Bool) (now n : Nat) :
    (s.runLines raw now (waitLines n)).ph = .idle := by
  induction n generalizing s with
  | zero => exact h
  | succ n ih =>
    rw [s.runLines_waitLines_succ]
    refine ih ?_
    rw [State.runLines_idle, engineStep_idle h]
    exact h

/-- WAITIDLE ends in an idle engine (R58). -/
theorem Inv.ph_runLines_waitIdle (h : Inv s) (raw : Bool) (now : Nat) :
    (s.runLines raw now (waitIdle s)).ph = .idle := by
  have hreset : (s.list raw now (waitIdle s)).noReset s.busyCycles := by
    have := s.list_noReset raw now (waitIdle s)
    rwa [show (waitIdle s).length = s.busyCycles from List.length_replicate ..] at this
  rw [waitIdle, State.runLines_waitLines]
  exact (State.not_busy_iff _).1 (busyEndsInTime _ (h.list raw now (waitIdle s)) hreset).2

/-- The four cycles of a TRANSMIT put its three bytes into the buffer of its pin, and change nothing else of the view
(R58). -/
theorem State.view_after_transmit {p : Pin} {b0 b1 b2 : Byte} {raw : Bool} {now : Nat} {rest : List PortIn} (h : Inv s)
    (hidle : s.ph = .idle) (hin : s.inputs = listing raw now (transmit p b0 b1 b2) ++ rest) :
    (s.after 4).view = s.view.put p b0 b1 b2 := by
  obtain ⟨-, h0, h1, h2, hother, hovr, hill, -⟩ := transmitSendsThreeBytes s p b0 b1 b2 raw now rest h hidle hin
  have hpressed : (s.after 4).pressed = s.pressed := by rw [State.after_transmit hidle hin]; rfl
  have hpending : (s.after 4).longPending = s.longPending := by rw [State.after_transmit hidle hin]; rfl
  refine HostView.ext (s.after_params 4) hpressed hpending hovr hill (funext fun q => ?_)
  by_cases hq : q = p
  · subst hq
    simp [State.view, HostView.put, h0, h1, h2]
  · simp [State.view, HostView.put, hq, hother q _ hq]

/-- A line with a command that starts no frame leaves the block at rest; the view is that of the command's state. -/
theorem State.rests.runLine {t : State} {i : Instr} {l : Line} {raw : Bool} {now : Nat} (h : s.rests v)
    (hl : l.command = some i) (hwf : i.wf = true) (he : exec i (s.list raw now [l]).quiet = .next t)
    (hidle : t.ph = .idle) :
    s.runLines raw now [l] = t.nextCycle ∧ (s.runLines raw now [l]).rests t.view := by
  have hrun := State.runLines_command hl (decode_encode hwf) he
  rw [engineStep_idle h.idle] at hrun
  exact ⟨hrun, h.inv.runLines raw now [l], by rw [hrun]; exact hidle, by rw [hrun]; exact t.view_nextCycle⟩

theorem State.rests.params (h : s.rests v) : s.params = v.params := congrArg HostView.params h.view

theorem State.rests.longPending (h : s.rests v) : s.longPending = v.longPending := congrArg HostView.longPending h.view

/-! ### The host's operations (R98) -/

theorem State.rests.wait (h : s.rests v) (raw : Bool) (now n : Nat) : (s.runLines raw now (waitLines n)).rests v :=
  ⟨h.inv.runLines raw now _, State.ph_runLines_waitLines h.idle raw now n,
    (s.view_runLines_waitLines raw now n).trans h.view⟩

/-- A frame sent as `transmit` sends it, with the wait for its end. -/
theorem HostSystem.send_rests (h : w.block.rests v) (e : HostSeen) (p : Pin) (b0 b1 b2 : Byte) :
    (w.send e (transmit p b0 b1 b2)).block.rests (v.put p b0 b1 b2) := by
  obtain ⟨hinv, hidle, rfl⟩ := h
  have hsent : Inv (w.cycles e (transmit p b0 b1 b2)).block := hinv.runLines e.raw e.now _
  refine ⟨hsent.runLines e.raw e.now _, hsent.ph_runLines_waitIdle e.raw e.now, ?_⟩
  calc (w.send e (transmit p b0 b1 b2)).block.view
    _ = (w.cycles e (transmit p b0 b1 b2)).block.view := State.view_runLines_waitLines ..
    _ = w.block.view.put p b0 b1 b2 := by
      rw [HostSystem.cycles_block, State.runLines_transmit]
      exact State.view_after_transmit (hinv.list ..) hidle (w.block.list_inputs ..)

theorem HostSystem.sendExt_rests (h : w.block.rests v) (e : HostSeen) (c : Colour) :
    (w.sendExt e c).block.rests (v.showExt c) := by
  rw [HostSystem.sendExt, h.params]
  exact HostSystem.send_rests h e v.params.pinExt c.g c.r c.b

theorem HostSystem.sendOnb_rests (h : w.block.rests v) (e : HostSeen) (c : Colour) :
    (w.sendOnb e c).block.rests (v.showOnb c) := by
  rw [HostSystem.sendOnb, h.params]
  exact HostSystem.send_rests h e v.params.pinOnb c.r c.g c.b

/-- Bit 1 of the answer to RD_VALUE (R79). -/
theorem State.testBit_valueWord (s : State) : s.valueWord.toNat.testBit 1 = s.pressed := by
  rw [BitVec.testBit_toNat, State.valueWord, BitVec.getLsbD_append]
  simp

/-- RD_VALUE answers whether the button is pressed, and leaves the view (R79). -/
theorem HostSystem.ask_rdValue_rests (h : w.block.rests v) (e : HostSeen) :
    (w.ask e .rdValue).block.rests v ∧ (w.ask e .rdValue).answerPressed = v.pressed := by
  obtain ⟨hrun, hrests⟩ := h.runLine (raw := e.raw) (now := e.now) (l := Line.of .rdValue) rfl rfl (exec_rdValue _) h.idle
  have hanswer : (w.ask e .rdValue).answerPressed = w.block.pressed := by
    rw [HostSystem.answerPressed, HostSystem.ask, HostSystem.cycles_block, hrun]
    exact w.block.testBit_valueWord
  simp only [State.view_respond, State.view_quiet, State.view_list, h.view] at hrests
  exact ⟨hrests, by rw [hanswer, ← h.view]; rfl⟩

/-- RD_LONG answers whether an event is pending, and clears it (R87). -/
theorem HostSystem.ask_rdLong_rests (h : w.block.rests v) (e : HostSeen) :
    (w.ask e .rdLong).block.rests { v with longPending := false } ∧ (w.ask e .rdLong).answerLong = v.longPending := by
  obtain ⟨hrun, hrests⟩ := h.runLine (raw := e.raw) (now := e.now) (l := Line.of .rdLong) rfl rfl (exec_rdLong _) h.idle
  have hanswer : (w.ask e .rdLong).answerLong = w.block.longPending := by
    rw [HostSystem.answerLong, HostSystem.ask, HostSystem.cycles_block, hrun]
    cases hp : w.block.longPending <;> simp [hp]
  simp only [State.view_clear_longPending, State.view_respond, State.view_quiet, State.view_list, h.view] at hrests
  exact ⟨hrests, by rw [hanswer, ← h.view]; rfl⟩

/-- The UPDATE of step 1 moves the button and the event alone of the view (R74). -/
theorem HostSystem.sample_rests (h : w.block.rests v) (e : HostSeen) :
    ∃ pressed pending, (w.sample e).block.rests { v with pressed := pressed, longPending := pending } := by
  obtain ⟨-, hrests⟩ := h.runLine (raw := e.raw) (now := e.now) (l := ⟨some .update, some e.raw, some e.now⟩) rfl rfl
    (exec_update _) h.idle
  rw [State.view_setDetector, State.view_quiet, State.view_list, h.view] at hrests
  exact ⟨_, _, hrests⟩

/-! ### The steps of an iteration (R98 to R101) -/

theorem HostSystem.showColour_rests (h : w.block.rests v) (e : HostSeen) :
    (w.showColour e).block.rests (v.showExt (v.loopColour w.host.persistent)) := by
  obtain ⟨hrests, hanswer⟩ := HostSystem.ask_rdValue_rests h e
  have hcolour : (w.ask e .rdValue).loopColour = v.loopColour w.host.persistent := by
    rw [HostSystem.loopColour, hanswer, HostSystem.ask_host, HostView.loopColour]
  rw [HostSystem.showColour, hcolour]
  exact HostSystem.sendExt_rests hrests e _

theorem HostSystem.longStep_no_event (h : w.block.rests v) (hp : v.longPending = false) :
    (w.longStep k e).block.rests v ∧ (w.longStep k e).host = w.host := by
  obtain ⟨hrests, hanswer⟩ := HostSystem.ask_rdLong_rests h e
  have hread : { v with longPending := false } = v := by rw [← hp]
  rw [HostSystem.longStep, hanswer, hp, if_neg Bool.false_ne_true]
  exact ⟨hread ▸ hrests, rfl⟩

theorem HostSystem.longStep_event (h : w.block.rests v) (hp : v.longPending = true) :
    (w.longStep k e).block.rests (v.afterEvent k.resetting) ∧
      (w.longStep k e).host = { w.host.triggerReset e.now with persistent := .black } := by
  obtain ⟨hrests, hanswer⟩ := HostSystem.ask_rdLong_rests h e
  rw [HostSystem.longStep, hanswer, hp, if_pos rfl]
  exact ⟨HostSystem.sendOnb_rests (HostSystem.sendExt_rests hrests e .black) e k.resetting, rfl⟩

/-- The poll of the reset sequencer sends the ready colour or nothing. -/
theorem HostSystem.resetStep_rests (h : w.block.rests v) (k : HostChoices) (e : HostSeen) :
    (w.resetStep k e).block.rests v ∨ (w.resetStep k e).block.rests (v.showOnb k.ready) := by
  simp only [HostSystem.resetStep]
  split
  · exact .inr (HostSystem.sendOnb_rests (w := { w with host := _ }) h e k.ready)
  · exact .inl h

theorem HostData.pollReset_persistent (P : Params) (d : HostData) (now : Nat) :
    (d.pollReset P now).1.persistent = d.persistent := by
  unfold HostData.pollReset
  split
  · split <;> rfl
  · rfl

theorem HostSystem.resetStep_persistent (w : HostSystem) (k : HostChoices) (e : HostSeen) :
    (w.resetStep k e).host.persistent = w.host.persistent := by
  rw [← HostData.pollReset_persistent w.block.params w.host e.now]
  simp only [HostSystem.resetStep]
  split
  · rw [HostSystem.sendOnb_host]
  · rfl

/-- A poll at the trigger's own tick finds no time passed: the pulse goes on (R100). -/
theorem HostSystem.resetStep_of_trigger (h : w.host.resetTimer = some e.now) : w.resetStep k e = w := by
  have hpoll : w.host.pollReset w.block.params e.now = (w.host, false) :=
    HostData.pollReset_waits h (by rw [tickDiff_self]; exact Nat.zero_le _)
  simp [HostSystem.resetStep, hpoll]

/-- New bytes change the line buffer alone of the host's data. -/
theorem HostData.receive_frame (d : HostData) (bytes : List Byte) :
    (d.receive bytes).1 = { d with lineBuf := (d.receive bytes).1.lineBuf } := by
  simp only [HostData.receive]
  split
  · rfl
  · split <;> rfl

/-- And what its lines amount to depends on the line buffer alone. -/
theorem HostData.receive_congr {d d' : HostData} (h : d.lineBuf = d'.lineBuf) (bytes : List Byte) :
    (d.receive bytes).2 = (d'.receive bytes).2 := by
  simp only [HostData.receive, h]
  split
  · rfl
  · split <;> rfl

theorem HostSystem.serialStep_none (hc : acceptedColour (w.host.receive e.bytes).2 = none) :
    (w.serialStep k e).block = w.block ∧ (w.serialStep k e).host = (w.host.receive e.bytes).1 := by
  simp [HostSystem.serialStep, hc]

theorem HostSystem.accept_rests (h : w.block.rests v) (e : HostSeen) (c : Colour) :
    (w.accept e c).block.rests (v.accept c) ∧ (w.accept e c).host.persistent = c := by
  obtain ⟨hrests, hanswer⟩ := HostSystem.ask_rdValue_rests
    (w := { w with host := { w.host with persistent := c } }) h e
  simp only [HostSystem.accept, HostView.accept, hanswer]
  split
  · exact ⟨hrests, rfl⟩
  · exact ⟨HostSystem.sendExt_rests hrests e c, by rw [HostSystem.sendExt_host]; rfl⟩

theorem HostSystem.serialStep_some (h : w.block.rests v) {c : Colour}
    (hc : acceptedColour (w.host.receive e.bytes).2 = some c) :
    (w.serialStep k e).block.rests (v.accept c) ∧ (w.serialStep k e).host.persistent = c := by
  simp only [HostSystem.serialStep, hc]
  exact HostSystem.accept_rests (by exact h) e c

theorem HostSystem.sleep_rests (h : w.block.rests v) (k : HostChoices) (e : HostSeen) :
    (w.sleep k e).block.rests v :=
  h.wait e.raw e.now k.sleepCycles

end

/-! ### The loop never overruns the block (R98, R126) -/

/-- The block at rest and without a fault. -/
def HostSystem.sound (w : HostSystem) : Prop := ∃ v, w.block.rests v ∧ v.ovr = false ∧ v.ill = false

theorem HostSystem.sound_iff (w : HostSystem) : w.sound ↔ Inv w.block ∧ w.block.ph = .idle ∧ w.block.safe := by
  constructor
  · rintro ⟨v, ⟨hinv, hidle, rfl⟩, hovr, hill⟩
    exact ⟨hinv, hidle, hovr, hill⟩
  · rintro ⟨hinv, hidle, hovr, hill⟩
    exact ⟨_, ⟨hinv, hidle, rfl⟩, hovr, hill⟩

section
variable {w : HostSystem}

theorem HostSystem.sound.sample (h : w.sound) (e : HostSeen) : (w.sample e).sound := by
  obtain ⟨v, hrests, hfaults⟩ := h
  obtain ⟨pressed, pending, hsample⟩ := HostSystem.sample_rests hrests e
  exact ⟨_, hsample, hfaults⟩

theorem HostSystem.sound.showColour (h : w.sound) (e : HostSeen) : (w.showColour e).sound := by
  obtain ⟨v, hrests, hfaults⟩ := h
  exact ⟨_, HostSystem.showColour_rests hrests e, hfaults⟩

theorem HostSystem.sound.longStep (h : w.sound) (k : HostChoices) (e : HostSeen) : (w.longStep k e).sound := by
  obtain ⟨v, hrests, hfaults⟩ := h
  cases hp : v.longPending with
  | false => exact ⟨_, (HostSystem.longStep_no_event hrests hp).1, hfaults⟩
  | true => exact ⟨_, (HostSystem.longStep_event hrests hp).1, hfaults⟩

theorem HostSystem.sound.resetStep (h : w.sound) (k : HostChoices) (e : HostSeen) : (w.resetStep k e).sound := by
  obtain ⟨v, hrests, hfaults⟩ := h
  rcases HostSystem.resetStep_rests hrests k e with hreset | hreset
  · exact ⟨_, hreset, hfaults⟩
  · exact ⟨_, hreset, hfaults⟩

theorem HostSystem.sound.serialStep (h : w.sound) (k : HostChoices) (e : HostSeen) : (w.serialStep k e).sound := by
  obtain ⟨v, hrests, hfaults⟩ := h
  cases hc : acceptedColour (w.host.receive e.bytes).2 with
  | none => exact ⟨v, by rwa [(HostSystem.serialStep_none hc).1], hfaults⟩
  | some c => exact ⟨_, (HostSystem.serialStep_some hrests hc).1, by simpa using hfaults⟩

theorem HostSystem.sound.sleep (h : w.sound) (k : HostChoices) (e : HostSeen) : (w.sleep k e).sound := by
  obtain ⟨v, hrests, hfaults⟩ := h
  exact ⟨v, HostSystem.sleep_rests hrests k e, hfaults⟩

end

/-- Settles O56: each step of an iteration keeps the block at rest and without a fault, so every iteration does. -/
theorem hostLoopNeverOverruns : Obligations.HostLoopNeverOverruns := by
  intro k w seen n hinv hidle hsafe
  have hloop : (w.loop k seen n).sound :=
    HostSystem.loop_induction (C := HostSystem.sound) seen ((w.sound_iff).2 ⟨hinv, hidle, hsafe⟩)
      (fun v e hv => (((((hv.sample e).showColour e).longStep k e).resetStep k e).serialStep k e).sleep k e) n
  obtain ⟨hinv', hidle', hsafe'⟩ := (HostSystem.sound_iff _).1 hloop
  exact ⟨hidle', hsafe', hinv'⟩

/-! ### What an iteration shows (R98, R99) -/

theorem HostView.buffer_showExt (v : HostView) (c : Colour) :
    (v.showExt c).buffer v.params.pinExt = (c.g, c.r, c.b) := Function.update_self ..

theorem HostView.buffer_showOnb (v : HostView) (c : Colour) :
    (v.showOnb c).buffer v.params.pinOnb = (c.r, c.g, c.b) := Function.update_self ..

/-- With the LEDs on different pins the onboard one's colour leaves the external one's. -/
theorem HostView.buffer_showOnb_ext {v : HostView} (h : v.params.pinExt ≠ v.params.pinOnb) (c : Colour) :
    (v.showOnb c).buffer v.params.pinExt = v.buffer v.params.pinExt := Function.update_of_ne h ..

/-- The external LED's buffer holds the colour of R98: red while pressed, else PersistentColor. -/
def HostView.showsLoop (v : HostView) (persistent : Colour) : Prop :=
  v.buffer v.params.pinExt =
    ((v.loopColour persistent).g, (v.loopColour persistent).r, (v.loopColour persistent).b)

theorem HostView.showsLoop_showExt (v : HostView) (c : Colour) : (v.showExt (v.loopColour c)).showsLoop c :=
  v.buffer_showExt _

theorem HostView.showsLoop.showOnb {v : HostView} {p : Colour} (h : v.showsLoop p)
    (hpins : v.params.pinExt ≠ v.params.pinOnb) (c : Colour) : (v.showOnb c).showsLoop p :=
  (HostView.buffer_showOnb_ext hpins c).trans h

/-- So it does after an accepted colour: red stays while pressed, otherwise the new PersistentColor is sent (R101). -/
theorem HostView.showsLoop.accept {v : HostView} {p : Colour} (h : v.showsLoop p) (c : Colour) :
    (v.accept c).showsLoop c := by
  rw [HostView.accept]
  cases hp : v.pressed with
  | true =>
    simp only [HostView.showsLoop, HostView.loopColour, hp, if_true] at h ⊢
    exact h
  | false =>
    have hcolour : v.loopColour c = c := by simp [HostView.loopColour, hp]
    have hshown := v.showsLoop_showExt c
    rwa [hcolour] at hshown

/-- The block at rest, with the colour of R98 in the buffer of an external LED that has a pin of its own. -/
def HostSystem.shows (w : HostSystem) : Prop :=
  ∃ v, w.block.rests v ∧ v.params.pinExt ≠ v.params.pinOnb ∧ v.showsLoop w.host.persistent

section
variable {w : HostSystem} {v : HostView}

theorem HostSystem.shows_showColour (h : w.block.rests v) (hpins : v.params.pinExt ≠ v.params.pinOnb) (e : HostSeen) :
    (w.showColour e).shows :=
  ⟨_, HostSystem.showColour_rests h e, hpins, by rw [HostSystem.showColour_host]; exact v.showsLoop_showExt _⟩

theorem HostSystem.shows.longStep (h : w.shows) (hp : w.block.longPending = false) (k : HostChoices) (e : HostSeen) :
    (w.longStep k e).shows := by
  obtain ⟨v, hrests, hpins, hshows⟩ := h
  obtain ⟨hblock, hhost⟩ := HostSystem.longStep_no_event (k := k) (e := e) hrests (hrests.longPending.symm.trans hp)
  exact ⟨v, hblock, hpins, by rwa [hhost]⟩

theorem HostSystem.shows.resetStep (h : w.shows) (k : HostChoices) (e : HostSeen) : (w.resetStep k e).shows := by
  obtain ⟨v, hrests, hpins, hshows⟩ := h
  rw [← w.resetStep_persistent k e] at hshows
  rcases HostSystem.resetStep_rests hrests k e with hreset | hreset
  · exact ⟨v, hreset, hpins, hshows⟩
  · exact ⟨_, hreset, hpins, hshows.showOnb hpins k.ready⟩

theorem HostSystem.shows.serialStep (h : w.shows) (k : HostChoices) (e : HostSeen) : (w.serialStep k e).shows := by
  obtain ⟨v, hrests, hpins, hshows⟩ := h
  cases hc : acceptedColour (w.host.receive e.bytes).2 with
  | none =>
    obtain ⟨hblock, hhost⟩ := HostSystem.serialStep_none (k := k) hc
    exact ⟨v, by rwa [hblock], hpins, by rwa [hhost, HostData.receive_frame]⟩
  | some c =>
    obtain ⟨hblock, hpersistent⟩ := HostSystem.serialStep_some (k := k) hrests hc
    exact ⟨_, hblock, by simpa using hpins, by rw [hpersistent]; exact hshows.accept c⟩

theorem HostSystem.shows.sleep (h : w.shows) (k : HostChoices) (e : HostSeen) : (w.sleep k e).shows := by
  obtain ⟨v, hrests, hpins, hshows⟩ := h
  exact ⟨v, HostSystem.sleep_rests hrests k e, hpins, by rwa [HostSystem.sleep_host]⟩

end

/-- Settles O57: step 2 shows the colour, step 3 finds no event, and what the later steps send keeps it shown. -/
theorem iterationShowsColour : Obligations.IterationShowsColour := by
  intro k w e hinv hidle hpins hpending
  obtain ⟨pressed, pending, hsample⟩ := HostSystem.sample_rests ⟨hinv, hidle, rfl⟩ e
  obtain rfl : false = pending := hpending.symm.trans hsample.longPending
  have hshow := HostSystem.shows_showColour hsample hpins e
  have hnone : ((w.sample e).showColour e).block.longPending = false :=
    (HostSystem.showColour_rests hsample e).longPending
  obtain ⟨u, ⟨-, -, rfl⟩, -, hu⟩ := (((hshow.longStep hnone k e).resetStep k e).serialStep k e).sleep k e
  obtain ⟨hg, hrb⟩ := Prod.mk.inj hu
  obtain ⟨hr, hb⟩ := Prod.mk.inj hrb
  exact ⟨hg, hr, hb⟩

/-- The three bytes of an LED's buffer, out of the view. -/
theorem State.rests.readBuf {s : State} {v : HostView} {p : Pin} {b0 b1 b2 : Byte} (h : s.rests v)
    (hv : v.buffer p = (b0, b1, b2)) : s.readBuf p 0#2 = b0 ∧ s.readBuf p 1#2 = b1 ∧ s.readBuf p 2#2 = b2 := by
  have hbuffer := (congrFun (congrArg HostView.buffer h.view) p).trans hv
  obtain ⟨h0, h12⟩ := Prod.mk.inj hbuffer
  exact ⟨h0, Prod.mk.inj h12⟩

theorem HostView.buffer_afterEvent_ext {v : HostView} (h : v.params.pinExt ≠ v.params.pinOnb) (c : Colour) :
    (v.afterEvent c).buffer v.params.pinExt = (0#8, 0#8, 0#8) := by
  rw [HostView.afterEvent]
  exact (HostView.buffer_showOnb_ext (by exact h) c).trans (HostView.buffer_showExt _ .black)

theorem HostView.buffer_afterEvent_onb (v : HostView) (c : Colour) :
    (v.afterEvent c).buffer v.params.pinOnb = (c.r, c.g, c.b) := by
  rw [HostView.afterEvent]
  exact HostView.buffer_showOnb _ c

/-- An iteration whose sample ends in an event: after the event's colours the poll goes on with the pulse, and without a
serial colour nothing more is sent (R99, R100). -/
theorem HostSystem.iteration_event {k : HostChoices} {w : HostSystem} {e : HostSeen} {v : HostView}
    (h : (w.sample e).block.rests v) (hp : v.longPending = true)
    (hc : acceptedColour (w.host.receive e.bytes).2 = none) :
    (w.iteration k e).block.rests ((v.showExt (v.loopColour w.host.persistent)).afterEvent k.resetting) ∧
      ∃ text, (w.iteration k e).host = { w.host.triggerReset e.now with persistent := .black, lineBuf := text } := by
  obtain ⟨hblock, hhost⟩ := HostSystem.longStep_event (k := k) (HostSystem.showColour_rests h e) hp
  rw [HostSystem.showColour_host, HostSystem.sample_host] at hhost
  rw [HostSystem.sample_host] at hblock
  rw [HostSystem.iteration]
  generalize ((w.sample e).showColour e).longStep k e = u at hblock hhost ⊢
  rw [HostSystem.resetStep_of_trigger (by rw [hhost]; rfl)]
  have hnone : acceptedColour (u.host.receive e.bytes).2 = none := by
    rwa [HostData.receive_congr (d' := w.host) (by rw [hhost]; rfl)]
  obtain ⟨hserial, hdata⟩ := HostSystem.serialStep_none (k := k) hnone
  refine ⟨HostSystem.sleep_rests (hserial ▸ hblock) k e, (u.host.receive e.bytes).1.lineBuf, ?_⟩
  rw [HostSystem.sleep_host, hdata, HostData.receive_frame, hhost]

/-- Settles O58: the two buffers are those after the event, and the host's data those after its trigger. -/
theorem longPressIteration : Obligations.LongPressIteration := by
  intro k w e hinv hidle hpins hpending hc
  obtain ⟨pressed, pending, hsample⟩ := HostSystem.sample_rests ⟨hinv, hidle, rfl⟩ e
  obtain rfl : true = pending := hpending.symm.trans hsample.longPending
  obtain ⟨hrests, text, hhost⟩ := HostSystem.iteration_event (k := k) hsample rfl hc
  intro u
  rw [show u.block.params = w.block.params from hrests.params]
  obtain ⟨hext0, hext1, hext2⟩ := hrests.readBuf (HostView.buffer_afterEvent_ext hpins k.resetting)
  have hext (i : ByteIdx) (hi : i ≠ 3#2) : u.block.readBuf w.block.params.pinExt i = 0x00#8 := by
    have hcases : i = 0#2 ∨ i = 1#2 ∨ i = 2#2 := by revert i; decide
    rcases hcases with rfl | rfl | rfl
    exacts [hext0, hext1, hext2]
  have honb := hrests.readBuf (HostView.buffer_afterEvent_onb _ k.resetting)
  exact ⟨hrests.longPending, congrArg HostData.persistent hhost, congrArg HostData.resetOut hhost,
    congrArg HostData.resetTimer hhost, hext, honb⟩

end Sys2Proof.Machine
end

section
/-! PROOFS. The host's serial parser (spec/45_host_environment.md R101, R102): one terminated line, its blanks, its
fields, and the integer a field spells. -/

namespace Sys2Proof.Machine

/-! ### One line -/

/-- Bytes that end the line in the buffer with its first terminator: the buffer is cleared and the line parsed. -/
theorem HostData.receive_line {h : HostData} {bytes text : List Byte} {term : Byte}
    (hbuf : h.lineBuf ++ bytes = text ++ [term]) (htext : ∀ c ∈ text, isTerminator c = false)
    (hterm : isTerminator term = true) : h.receive bytes = ({ h with lineBuf := [] }, [parseLine text]) := by
  have hgo : ∀ c ∈ text, (!isTerminator c) = true := fun c hc => by simp [htext c hc]
  have hdrop : (text ++ [term]).dropWhile (fun c => !isTerminator c) = [term] := by
    rw [List.dropWhile_append_of_pos hgo]
    simp [hterm]
  have htake : (text ++ [term]).takeWhile (fun c => !isTerminator c) = text := by
    rw [List.takeWhile_append_of_pos hgo]
    simp [hterm]
  simp [HostData.receive, hbuf, hdrop, htake]

/-! ### Blanks -/

/-- Text is trimmed on its left, then on its right. -/
theorem trimBlanks_eq (l : List Byte) : trimBlanks l = (l.dropWhile isBlank).rdropWhile isBlank := rfl

section
variable {c : Byte}

theorem count_dropWhile_isBlank (hc : isBlank c = false) (l : List Byte) : (l.dropWhile isBlank).count c = l.count c := by
  have hblanks : (l.takeWhile isBlank).count c = 0 :=
    List.count_eq_zero.2 fun h => by simpa [hc] using List.mem_takeWhile_imp h
  conv_rhs => rw [← List.takeWhile_append_dropWhile (p := isBlank) (l := l), List.count_append, hblanks, Nat.zero_add]

theorem count_rdropWhile_isBlank (hc : isBlank c = false) (l : List Byte) :
    (l.rdropWhile isBlank).count c = l.count c := by
  rw [List.rdropWhile, List.count_reverse, count_dropWhile_isBlank hc, List.count_reverse]

theorem count_trimBlanks (hc : isBlank c = false) (l : List Byte) : (trimBlanks l).count c = l.count c := by
  rw [trimBlanks_eq, count_rdropWhile_isBlank hc, count_dropWhile_isBlank hc]

/-- No byte that is not blank is trimmed away. -/
theorem mem_dropWhile_isBlank (hc : isBlank c = false) {l : List Byte} : c ∈ l.dropWhile isBlank ↔ c ∈ l := by
  rw [← List.count_pos_iff, count_dropWhile_isBlank hc, List.count_pos_iff]

theorem mem_rdropWhile_isBlank (hc : isBlank c = false) {l : List Byte} : c ∈ l.rdropWhile isBlank ↔ c ∈ l := by
  rw [← List.count_pos_iff, count_rdropWhile_isBlank hc, List.count_pos_iff]

end

/-- Trimming stops at a byte that is not blank, from the left and from the right. -/
theorem dropWhile_append_stop {α : Type} {p : α → Bool} {x : α} (hx : p x = false) (l r : List α) :
    (l ++ x :: r).dropWhile p = l.dropWhile p ++ x :: r := by
  rw [List.dropWhile_append]
  split
  case isTrue h => rw [List.isEmpty_iff.1 h, List.dropWhile_cons_of_neg (by simp [hx]), List.nil_append]
  case isFalse => rfl

theorem rdropWhile_append_stop {α : Type} {p : α → Bool} {x : α} (hx : p x = false) (l r : List α) :
    (l ++ x :: r).rdropWhile p = l ++ x :: r.rdropWhile p := by
  have hrev : (l ++ x :: r).reverse = r.reverse ++ x :: l.reverse := by simp
  rw [List.rdropWhile, hrev, dropWhile_append_stop hx]
  simp [List.rdropWhile]

/-! ### Fields -/

theorem splitCommas_of_not_mem {f : List Byte} (h : 44#8 ∉ f) : splitCommas f = [f] := by
  induction f with
  | nil => rfl
  | cons c f ih =>
    obtain ⟨hc, hf⟩ := not_or.1 (mt List.mem_cons.2 h)
    simp [splitCommas, Ne.symm hc, ih hf]

theorem splitCommas_append {f : List Byte} (h : 44#8 ∉ f) (g : List Byte) :
    splitCommas (f ++ 44#8 :: g) = f :: splitCommas g := by
  induction f with
  | nil => rfl
  | cons c f ih =>
    obtain ⟨hc, hf⟩ := not_or.1 (mt List.mem_cons.2 h)
    simp [splitCommas, Ne.symm hc, ih hf]

/-- A line has one field more than commas. -/
theorem length_splitCommas (l : List Byte) : (splitCommas l).length = l.count 44#8 + 1 := by
  induction l with
  | nil => rfl
  | cons c l ih =>
    by_cases hc : c = 44#8
    · simp [splitCommas, hc, ih]
    · cases hs : splitCommas l with
      | nil => simp [hs] at ih
      | cons f fs => simpa [splitCommas, hc, hs] using ih

theorem parseFields_of_length_ne {fs : List (List Byte)} (h : fs.length ≠ 3) :
    parseFields fs = .parseFailure (.fieldCount fs.length) := by
  unfold parseFields
  split
  · simp at h
  · rfl

theorem parseFields_of_none {f g h : List Byte} (hnone : ∃ x ∈ [f, g, h], fieldInteger x = none) :
    ∃ e, parseFields [f, g, h] = .parseFailure e := by
  cases hf : fieldInteger f with
  | none => exact ⟨.nonNumeric f, by simp [parseFields, hf]⟩
  | some r =>
    cases hg : fieldInteger g with
    | none => exact ⟨.nonNumeric g, by simp [parseFields, hf, hg]⟩
    | some s =>
      cases hh : fieldInteger h with
      | none => exact ⟨.nonNumeric h, by simp [parseFields, hf, hg, hh]⟩
      | some t => simp [hf, hg, hh] at hnone

theorem parseLine_no_comma {line : List Byte} (h : 44#8 ∉ line) : parseLine line = .discardedNoComma := by
  have hcount : (trimBlanks line).count 44#8 = 0 := by rw [count_trimBlanks (by decide), List.count_eq_zero.2 h]
  rw [parseLine, if_neg (by simpa using List.count_eq_zero.1 hcount)]

theorem parseLine_comma {line : List Byte} (h : 44#8 ∈ line) :
    parseLine line = parseFields (splitCommas (trimBlanks line)) := by
  have hcount : 0 < (trimBlanks line).count 44#8 := by rw [count_trimBlanks (by decide)]; exact List.count_pos_iff.2 h
  rw [parseLine, if_pos (by simpa using List.count_pos_iff.1 hcount)]

theorem parseLine_field_count {line : List Byte} (h : 44#8 ∈ line) (hcount : line.count 44#8 ≠ 2) :
    ∃ e, parseLine line = .parseFailure e := by
  refine ⟨_, (parseLine_comma h).trans (parseFields_of_length_ne ?_)⟩
  rw [length_splitCommas, count_trimBlanks (by decide)]
  omega

/-- Three fields: of the blanks around the line the first loses those on its left, the last those on its right. -/
theorem parseLine_three_fields {f0 f1 f2 : List Byte} (h0 : 44#8 ∉ f0) (h1 : 44#8 ∉ f1) (h2 : 44#8 ∉ f2) :
    parseLine (f0 ++ [44#8] ++ f1 ++ [44#8] ++ f2) =
      parseFields [f0.dropWhile isBlank, f1, f2.rdropWhile isBlank] := by
  have hcomma : isBlank 44#8 = false := by decide
  have htrim : trimBlanks (f0 ++ [44#8] ++ f1 ++ [44#8] ++ f2) =
      f0.dropWhile isBlank ++ 44#8 :: (f1 ++ 44#8 :: f2.rdropWhile isBlank) := by
    have hline : f0 ++ [44#8] ++ f1 ++ [44#8] ++ f2 = f0 ++ 44#8 :: (f1 ++ 44#8 :: f2) := by simp
    have hleft : f0.dropWhile isBlank ++ 44#8 :: (f1 ++ 44#8 :: f2) =
        (f0.dropWhile isBlank ++ 44#8 :: f1) ++ 44#8 :: f2 := by simp
    rw [trimBlanks_eq, hline, dropWhile_append_stop hcomma, hleft, rdropWhile_append_stop hcomma]
    simp
  rw [parseLine_comma (by simp), htrim, splitCommas_append (by rwa [mem_dropWhile_isBlank hcomma]), splitCommas_append h1,
    splitCommas_of_not_mem (by rwa [mem_rdropWhile_isBlank hcomma])]

/-! ### Fields that spell no integer (R101, log 15) -/

theorem isDecimal_iff {f : List Byte} : isDecimal f = true ↔ f ≠ [] ∧ ∀ c ∈ f, isDigit c = true := by
  simp [isDecimal]

theorem exists_of_isBased {f : List Byte} (h : isBased f = true) :
    ∃ b ds base, f = 48#8 :: b :: ds ∧ letterBase b = some base ∧ ∀ d ∈ ds, isDigitOf base d = true := by
  unfold isBased at h
  split at h
  next b ds =>
    cases hb : letterBase b with
    | none => simp [hb] at h
    | some base =>
      simp only [hb, Bool.and_eq_true, List.all_eq_true] at h
      exact ⟨b, ds, base, rfl, hb, h.2⟩
  next => simp at h

/-- The letter of a base is no digit. -/
theorem not_isDigit_of_letterBase {b : Byte} (h : (letterBase b).isSome = true) : isDigit b = false := by
  revert b; decide

theorem isHexDigit_of_isDigit {c : Byte} (h : isDigit c = true) : isHexDigit c = true := by simp [isHexDigit, h]

theorem isHexDigit_of_isDigitOf {base : Nat} {c : Byte} (h : isDigitOf base c = true) : isHexDigit c = true := by
  unfold isDigitOf at h
  split at h
  case isTrue hd => exact isHexDigit_of_isDigit hd
  case isFalse => exact (Bool.and_eq_true_iff.1 h).1

/-- What a field may hold so that it spells no integer: no digit at all, a byte that stands in no integer, or a digit
that its own base does not have. -/
inductive Misspelt : List Byte → Prop where
  | noDigit {f : List Byte} (h : ∀ c ∈ f, isDigit c = false) : Misspelt f
  | stray {f : List Byte} {c : Byte} (hc : c ∈ f) (hhex : isHexDigit c = false) (hletter : isBaseLetter c = false)
      (hblank : isBlank c = false) (hplus : c ≠ 43#8) (hminus : c ≠ 45#8) : Misspelt f
  | beyondBase {b d : Byte} {ds : List Byte} {base : Nat} (hb : letterBase b = some base) (hd : d ∈ ds)
      (hblank : isBlank d = false) (hbeyond : isDigitOf base d = false) : Misspelt (48#8 :: b :: ds)

namespace Misspelt

variable {f : List Byte}

theorem not_isDecimal (h : Misspelt f) : isDecimal f = false := by
  refine Bool.eq_false_iff.2 fun hdec => ?_
  obtain ⟨hne, hall⟩ := isDecimal_iff.1 hdec
  cases h with
  | noDigit hno =>
    obtain ⟨c, hc⟩ := List.exists_mem_of_ne_nil f hne
    exact Bool.eq_false_iff.1 (hno c hc) (hall c hc)
  | stray hc hhex => exact Bool.eq_false_iff.1 hhex (isHexDigit_of_isDigit (hall _ hc))
  | beyondBase hb =>
    exact Bool.eq_false_iff.1 (not_isDigit_of_letterBase (by rw [hb]; rfl)) (hall _ (by simp))

theorem not_isBased (h : Misspelt f) : isBased f = false := by
  refine Bool.eq_false_iff.2 fun hbased => ?_
  obtain ⟨b, ds, base, rfl, hb, hall⟩ := exists_of_isBased hbased
  cases h with
  | noDigit hno => exact absurd (hno 48#8 (by simp)) (by decide)
  | stray hc hhex hletter =>
    rcases List.mem_cons.1 hc with rfl | hc
    · exact absurd hhex (by decide)
    · rcases List.mem_cons.1 hc with rfl | hc
      · simp [isBaseLetter, hb] at hletter
      · exact Bool.eq_false_iff.1 hhex (isHexDigit_of_isDigitOf (hall _ hc))
  | beyondBase hb' hd _ hbeyond =>
    obtain rfl := Option.some.inj (hb'.symm.trans hb)
    exact Bool.eq_false_iff.1 hbeyond (hall _ hd)

/-! Blanks around it and a sign before it mend no such field. -/

theorem dropWhile (h : Misspelt f) : Misspelt (f.dropWhile isBlank) := by
  cases h with
  | noDigit h => exact .noDigit fun c hc => h c ((List.dropWhile_sublist _).subset hc)
  | stray hc hhex hletter hblank hplus hminus =>
    exact .stray ((mem_dropWhile_isBlank hblank).2 hc) hhex hletter hblank hplus hminus
  | beyondBase hb hd hblank hbeyond => exact .beyondBase hb hd hblank hbeyond

theorem rdropWhile (h : Misspelt f) : Misspelt (f.rdropWhile isBlank) := by
  cases h with
  | noDigit h => exact .noDigit fun c hc => h c (by simpa using (List.dropWhile_sublist _).subset (List.mem_reverse.1 hc))
  | stray hc hhex hletter hblank hplus hminus =>
    exact .stray ((mem_rdropWhile_isBlank hblank).2 hc) hhex hletter hblank hplus hminus
  | @beyondBase b d ds base hb hd hblank hbeyond =>
    obtain ⟨l, r, rfl⟩ := List.append_of_mem hd
    have hstop := rdropWhile_append_stop hblank (48#8 :: b :: l) r
    simp only [List.cons_append] at hstop
    rw [hstop]
    exact .beyondBase hb (by simp) hblank hbeyond

theorem trimBlanks (h : Misspelt f) : Misspelt (trimBlanks f) := h.dropWhile.rdropWhile

theorem tail {c : Byte} (h : Misspelt (c :: f)) (hc : c = 45#8 ∨ c = 43#8) : Misspelt f := by
  cases h with
  | noDigit h => exact .noDigit fun d hd => h d (List.mem_cons_of_mem c hd)
  | stray hd hhex hletter hblank hplus hminus =>
    rcases List.mem_cons.1 hd with rfl | hd
    · rcases hc with hc | hc
      · exact absurd hc hminus
      · exact absurd hc hplus
    · exact .stray hd hhex hletter hblank hplus hminus
  | beyondBase => rcases hc with hc | hc <;> simp at hc

theorem dropSign (h : Misspelt f) : Misspelt (dropSign f) := by
  unfold Machine.dropSign
  split
  · exact h.tail (.inl rfl)
  · exact h.tail (.inr rfl)
  · exact h

theorem fieldInteger (h : Misspelt f) : fieldInteger f = none := by
  have hodd : isOddInteger f = false := by
    simp [isOddInteger, h.trimBlanks.dropSign.trimBlanks.not_isDecimal, h.trimBlanks.dropSign.trimBlanks.not_isBased]
  have hminus : ¬(f.head? = some 45#8 ∧ isDecimal f.tail = true) := by
    rintro ⟨hhead, hdec⟩
    obtain ⟨g, rfl⟩ : ∃ g, f = 45#8 :: g := List.head?_eq_some_iff.1 hhead
    exact Bool.eq_false_iff.1 (h.tail (.inl rfl)).not_isDecimal hdec
  simp [Machine.fieldInteger, h.not_isDecimal, hminus, hodd]

end Misspelt

/-- A line with a misspelt field fails, whether its fields are three or, as some hold commas too, more. -/
theorem parseLine_misspelt {f0 f1 f2 : List Byte} (h : ∃ f ∈ [f0, f1, f2], Misspelt f) :
    ∃ e, parseLine (f0 ++ [44#8] ++ f1 ++ [44#8] ++ f2) = .parseFailure e := by
  by_cases hcount : (f0 ++ [44#8] ++ f1 ++ [44#8] ++ f2).count 44#8 = 2
  case neg => exact parseLine_field_count (by simp) hcount
  simp only [List.count_append, List.count_singleton_self] at hcount
  have hfree {f : List Byte} (hf : f.count 44#8 = 0) : 44#8 ∉ f := List.count_eq_zero.1 hf
  rw [parseLine_three_fields (hfree (by omega)) (hfree (by omega)) (hfree (by omega))]
  obtain ⟨f, hf, hbad⟩ := h
  refine parseFields_of_none ?_
  simp only [List.mem_cons, List.not_mem_nil, or_false] at hf
  rcases hf with rfl | rfl | rfl
  · exact ⟨_, by simp, hbad.dropWhile.fieldInteger⟩
  · exact ⟨_, by simp, hbad.fieldInteger⟩
  · exact ⟨_, by simp, hbad.rdropWhile.fieldInteger⟩

theorem misspelt_octal_or_binary {b d : Byte} {ds : List Byte} (hd : d ∈ ds) (hblank : isBlank d = false)
    (h : ((b = 111#8 ∨ b = 79#8) ∧ 55 < d.toNat) ∨ ((b = 98#8 ∨ b = 66#8) ∧ 49 < d.toNat)) :
    Misspelt (48#8 :: b :: ds) := by
  have hbeyond {base : Nat} (hbase : base < 16) (hlt : base + 48 ≤ d.toNat) : isDigitOf base d = false := by
    unfold isDigitOf
    split
    · exact decide_eq_false (by omega)
    · simp [Nat.ne_of_lt hbase]
  rcases h with ⟨hb, hlt⟩ | ⟨hb, hlt⟩
  · have hoctal : letterBase b = some 8 := by rcases hb with rfl | rfl <;> rfl
    exact .beyondBase hoctal hd hblank (hbeyond (by decide) hlt)
  · have hbinary : letterBase b = some 2 := by rcases hb with rfl | rfl <;> rfl
    exact .beyondBase hbinary hd hblank (hbeyond (by decide) hlt)

/-- Settles O55: the terminated line is parsed alone, and each of its faults is one that `parseLine` finds. -/
theorem badLineIsDiscarded : Obligations.BadLineIsDiscarded := by
  intro h line term hline hterm text fails
  have hreceive : h.receive (line ++ [term]) = ({ h with lineBuf := [] }, [parseLine text]) := by
    refine HostData.receive_line (List.append_assoc ..).symm (fun c hc => ?_) ?_
    · simpa [isTerminator] using hline c hc
    · simpa [isTerminator] using hterm
  have hfails (hparse : ∃ e, parseLine text = .parseFailure e) : fails := by
    obtain ⟨e, he⟩ := hparse
    exact ⟨e, by rw [hreceive, he], rfl, rfl⟩
  refine ⟨fun hno => ⟨by rw [hreceive, parseLine_no_comma hno], rfl, rfl⟩,
    fun hcomma hcount => hfails (parseLine_field_count hcomma hcount), fun f0 f1 f2 htext hbad => hfails ?_,
    fun f0 f1 f2 htext hbad => hfails ?_⟩
  · rw [htext]
    obtain ⟨f, hf, hno | ⟨c, hc, hhex, hletter, hblank, hplus, hminus, -⟩⟩ := hbad
    · exact parseLine_misspelt ⟨f, hf, .noDigit hno⟩
    · exact parseLine_misspelt ⟨f, hf, .stray hc hhex hletter hblank hplus hminus⟩
  · rw [htext]
    obtain ⟨f, hf, b, ds, d, rfl, hd, hblank, hbase⟩ := hbad
    exact parseLine_misspelt ⟨_, hf, misspelt_octal_or_binary hd hblank hbase⟩

/-! ### Decimal integers (R101, log 15) -/

/-- The digits of a decimal integer as text. -/
def digitBytes (d : List Nat) : List Byte := d.map (fun x => BitVec.ofNat 8 (48 + x))

/-- A decimal integer as text, with or without a minus sign. -/
def decimalText (m : Bool) (d : List Nat) : List Byte := (if m then [45#8] else []) ++ digitBytes d

/-- The integer that `decimalText` spells. -/
def decimalInt (m : Bool) (d : List Nat) : Int := (if m then -1 else 1) * (Nat.ofDigits 10 d.reverse : Int)

/-- One or more decimal digits. -/
def IsNumeral (d : List Nat) : Prop := d ≠ [] ∧ ∀ x ∈ d, x < 10

section
variable {d : List Nat} {x : Nat} {m : Bool}

theorem toNat_digit (hx : x < 10) : (BitVec.ofNat 8 (48 + x)).toNat = 48 + x := by
  rw [BitVec.toNat_ofNat]
  omega

theorem isDigit_digit (hx : x < 10) : isDigit (BitVec.ofNat 8 (48 + x)) = true := by
  simp only [isDigit, toNat_digit hx, Bool.and_eq_true, decide_eq_true_eq]
  omega

theorem isDigit_of_mem_digitBytes (hd : IsNumeral d) {c : Byte} (hc : c ∈ digitBytes d) : isDigit c = true := by
  obtain ⟨x, hx, rfl⟩ := List.mem_map.1 hc
  exact isDigit_digit (hd.2 x hx)

theorem isDecimal_digitBytes (hd : IsNumeral d) : isDecimal (digitBytes d) = true :=
  isDecimal_iff.2 ⟨by simpa [digitBytes] using hd.1, fun _ => isDigit_of_mem_digitBytes hd⟩

theorem digitsValue_append_singleton (ds : List Byte) (c : Byte) :
    digitsValue (ds ++ [c]) = 10 * digitsValue ds + (c.toNat - 48) := by
  simp [digitsValue]

theorem digitsValue_digitBytes (hd : ∀ x ∈ d, x < 10) : digitsValue (digitBytes d) = Nat.ofDigits 10 d.reverse := by
  induction d using List.reverseRecOn with
  | nil => rfl
  | append_singleton d x ih =>
    have hbytes : digitBytes (d ++ [x]) = digitBytes d ++ [BitVec.ofNat 8 (48 + x)] := by simp [digitBytes]
    have hrev : (d ++ [x]).reverse = x :: d.reverse := by simp
    rw [hbytes, digitsValue_append_singleton, toNat_digit (hd x (by simp)), ih fun y hy => hd y (by simp [hy]), hrev,
      Nat.ofDigits_cons, Nat.add_sub_cancel_left, Nat.add_comm]

theorem fieldInteger_decimalText (m : Bool) (hd : IsNumeral d) :
    fieldInteger (decimalText m d) = some (decimalInt m d) := by
  have hdec := isDecimal_digitBytes hd
  cases m with
  | false => simp [fieldInteger, decimalText, decimalInt, hdec, digitsValue_digitBytes hd.2, Nat.coe_ofDigits]
  | true =>
    have hminus : isDecimal (45#8 :: digitBytes d) = false := by simp [isDecimal, show isDigit 45#8 = false by decide]
    simp [fieldInteger, decimalText, decimalInt, hdec, hminus, digitsValue_digitBytes hd.2, Nat.coe_ofDigits]

/-- Such text holds neither a blank nor a comma. -/
theorem mem_decimalText (hd : IsNumeral d) {c : Byte} (hc : c ∈ decimalText m d) :
    isBlank c = false ∧ c ≠ 44#8 := by
  have hcases : c = 45#8 ∨ isDigit c = true := by
    rcases List.mem_append.1 hc with hc | hc
    · cases m <;> simp at hc
      exact .inl hc
    · exact .inr (isDigit_of_mem_digitBytes hd hc)
  have hall : ∀ c : Byte, (c = 45#8 ∨ isDigit c = true) → isBlank c = false ∧ c ≠ 44#8 := by decide
  exact hall c hcases

theorem not_isTerminator_of_mem_decimalText (hd : IsNumeral d) {c : Byte} (hc : c ∈ decimalText m d) :
    isTerminator c = false := by
  have hblank := (mem_decimalText hd hc).1
  simp only [isBlank, Bool.or_eq_false_iff] at hblank
  exact hblank.2

theorem comma_not_mem_decimalText (hd : IsNumeral d) : 44#8 ∉ decimalText m d :=
  fun hc => (mem_decimalText hd hc).2 rfl

theorem dropWhile_decimalText (hd : IsNumeral d) :
    (decimalText m d).dropWhile isBlank = decimalText m d :=
  List.dropWhile_eq_self_iff.2 fun _ => Bool.eq_false_iff.1 (mem_decimalText hd (List.getElem_mem _)).1

theorem rdropWhile_decimalText (hd : IsNumeral d) :
    (decimalText m d).rdropWhile isBlank = decimalText m d :=
  List.rdropWhile_eq_self_iff.2 fun _ => Bool.eq_false_iff.1 (mem_decimalText hd (List.getLast_mem _)).1

end

theorem parseLine_decimals {d0 d1 d2 : List Nat} (m0 m1 m2 : Bool) (h0 : IsNumeral d0) (h1 : IsNumeral d1)
    (h2 : IsNumeral d2) :
    parseLine (decimalText m0 d0 ++ [44#8] ++ decimalText m1 d1 ++ [44#8] ++ decimalText m2 d2) =
      .ok ⟨clampByte (decimalInt m0 d0), clampByte (decimalInt m1 d1), clampByte (decimalInt m2 d2)⟩ := by
  rw [parseLine_three_fields (comma_not_mem_decimalText h0) (comma_not_mem_decimalText h1)
    (comma_not_mem_decimalText h2), dropWhile_decimalText h0, rdropWhile_decimalText h2]
  simp only [parseFields, fieldInteger_decimalText m0 h0, fieldInteger_decimalText m1 h1, fieldInteger_decimalText m2 h2]

/-- A byte of a colour is the integer clamped into [0, 255] (R101). -/
theorem clampByte_clamps (z : Int) : (z < 0 → clampByte z = 0#8) ∧ (255 < z → clampByte z = 255#8) ∧
    (0 ≤ z → z ≤ 255 → ((clampByte z).toNat : Int) = z) := by
  refine ⟨fun h => ?_, fun h => ?_, fun h0 h255 => ?_⟩
  · rw [clampByte, show max 0 (min 255 z) = 0 by omega]
    rfl
  · rw [clampByte, show max 0 (min 255 z) = 255 by omega]
    rfl
  · rw [clampByte, show max 0 (min 255 z) = z by omega, BitVec.toNat_ofInt]
    omega

/-- Settles O54: the line has no blanks to trim, its two commas split it into the three integers, and each of them is
clamped. -/
theorem serialTripleIsClamped : Obligations.SerialTripleIsClamped := by
  intro h m0 m1 m2 d0 d1 d2 term hbuf hterm hdigits text int clamped
  obtain ⟨h0, h1, h2⟩ : IsNumeral d0 ∧ IsNumeral d1 ∧ IsNumeral d2 :=
    ⟨hdigits d0 (by simp), hdigits d1 (by simp), hdigits d2 (by simp)⟩
  let line := decimalText m0 d0 ++ [44#8] ++ decimalText m1 d1 ++ [44#8] ++ decimalText m2 d2
  have hline (c : Byte) (hc : c ∈ line) : isTerminator c = false := by
    simp only [line, List.mem_append, List.mem_singleton] at hc
    rcases hc with (((hc | rfl) | hc) | rfl) | hc
    · exact not_isTerminator_of_mem_decimalText h0 hc
    · decide
    · exact not_isTerminator_of_mem_decimalText h1 hc
    · decide
    · exact not_isTerminator_of_mem_decimalText h2 hc
  have hreceive : h.receive (line ++ [term]) = ({ h with lineBuf := [] }, [parseLine line]) :=
    HostData.receive_line (by rw [hbuf, List.nil_append]) hline (by simpa [isTerminator] using hterm)
  have hclear : { h with lineBuf := [] } = h := by rw [← hbuf]
  rw [parseLine_decimals m0 m1 m2 h0 h1 h2, hclear] at hreceive
  exact ⟨⟨clampByte (decimalInt m0 d0), clampByte (decimalInt m1 d1), clampByte (decimalInt m2 d2)⟩, hreceive,
    clampByte_clamps (decimalInt m0 d0), clampByte_clamps (decimalInt m1 d1), clampByte_clamps (decimalInt m2 d2)⟩

end Sys2Proof.Machine
end

section
/-! PROOFS. The two sticky faults (spec/60_exceptions.md R107 to R109): what sets each of them, that a faulting command
does nothing else, and that RD_STATUS alone reads them. -/

namespace Sys2Proof.Machine

/-! ### What sets a fault bit, and where STATUS shows it (R107, R109) -/

/-- A command the decoder gives sets `ovr` as a TX while busy, `ill` as the reserved WBUF, and clears neither. -/
theorem exec_faults {i : Instr} {s t : State} (hwf : i.wf = true) (h : exec i s = .next t) :
    (t.ovr = true ↔ s.ovr = true ∨ (s.busy = true ∧ ∃ p, i = .tx p)) ∧
    (t.ill = true ↔ s.ill = true ∨ i = .wbufRsvd) := by
  rcases exec_cases h with ⟨rfl, rfl⟩ | ⟨rfl | ⟨p, v, rfl⟩, rfl⟩ | ⟨p, j, v, rfl, -, rfl⟩ | ⟨p, rfl, hb, rfl⟩ |
    ⟨p, rfl, hb, rfl⟩ | ⟨rfl, rfl⟩ | ⟨rfl, rfl⟩ | ⟨rfl, rfl⟩ | ⟨rfl, rfl⟩ | ⟨rfl, rfl⟩
  case inr.inl.inr => simp [Instr.wf] at hwf
  case inr.inr.inr.inl | inr.inr.inr.inr.inl => simp [hb]
  all_goals simp

/-- The same of a whole cycle without reset: the engine has no part in it. -/
theorem step_faults {s t : State} (hrst : s.input.rst = false) (h : step s = .next t) :
    (t.ovr = true ↔ s.ovr = true ∨ (s.busy = true ∧ ∃ p, s.command = some (.tx p))) ∧
    (t.ill = true ↔ s.ill = true ∨ s.command = some .wbufRsvd) := by
  rcases step_cases s with ⟨hr, -⟩ | ⟨-, hn, h'⟩ | ⟨-, i, u, hi, he, h'⟩
  · simp [hrst] at hr
  · obtain rfl : _ = t := Host.Outcome.next.inj (h'.symm.trans h)
    simp [hn]
  · obtain rfl : _ = t := Host.Outcome.next.inj (h'.symm.trans h)
    obtain ⟨-, -, hdecode⟩ := State.command_eq_some.1 hi
    simpa [hi] using exec_faults (hdecode ▸ decode_wf _) he

/-- Reset clears both bits (R109, R120). -/
theorem step_reset_safe {s t : State} (hrst : s.input.rst = true) (h : step s = .next t) : t.safe := by
  obtain rfl : _ = t := Host.Outcome.next.inj ((step_reset hrst).symm.trans h)
  exact ⟨rfl, rfl⟩

theorem State.status_bit_ovr (s : State) : s.status.getLsbD 3 = s.ovr := by
  simp only [State.status, BitVec.getLsbD_append]
  simp

theorem State.status_bit_ill (s : State) : s.status.getLsbD 4 = s.ill := by
  simp only [State.status, BitVec.getLsbD_append]
  simp

/-- Settles O26, from the fault bits of a cycle, the reset values, and the bits of STATUS. -/
theorem faultBitsExactly : Obligations.FaultBitsExactly := by
  intro s
  have hstep := (step_after s 0).1
  exact ⟨_, hstep, fun hrst => step_faults hrst hstep, fun hrst => step_reset_safe hrst hstep, s.status_bit_ovr,
    s.status_bit_ill⟩

/-! ### A host that keeps its duties (R108, R126) -/

/-- A dutiful cycle sets no fault bit, and reset clears both. -/
theorem State.safe.step {s t : State} (hs : s.safe) (hd : s.dutiful) (h : step s = .next t) : t.safe := by
  cases hrst : s.input.rst with
  | true => exact step_reset_safe hrst h
  | false =>
    obtain ⟨hovr, hill⟩ := step_faults hrst h
    obtain ⟨hsovr, hsill⟩ := hs
    obtain ⟨htx, hrsvd⟩ := hd
    refine ⟨Bool.eq_false_iff.2 fun ht => ?_, Bool.eq_false_iff.2 fun ht => ?_⟩
    · rcases hovr.1 ht with hold | ⟨hbusy, p, hp⟩
      · simp [hsovr] at hold
      · simp [htx p hp] at hbusy
    · rcases hill.1 ht with hold | hc
      · simp [hsill] at hold
      · exact hrsvd hc

/-- Settles O28, by induction on the number of cycles. -/
theorem dutifulHostStaysSafe : Obligations.DutifulHostStaysSafe :=
  fun s n hs hd => State.after_induction hs (fun k hk hsafe => hsafe.step (hd k hk) (step_after s k).1) n le_rfl

/-! ### What reads a fault bit (R108) -/

/-- The state with other fault bits, and with another answer on the response port. -/
def State.withFaults (s : State) (ovr ill : Bool) (rspData : Nat) : State :=
  { s with ovr := ovr, ill := ill, rspData := rspData }

@[simp] theorem State.withFaults_quiet (s : State) (a b : Bool) (d : Nat) :
    (s.withFaults a b d).quiet = s.quiet.withFaults a b 0 := rfl

@[simp] theorem State.withFaults_nextCycle (s : State) (a b : Bool) (d : Nat) :
    (s.withFaults a b d).nextCycle = s.nextCycle.withFaults a b d := rfl

/-- Only RD_STATUS reads a fault bit, and only into its answer. -/
theorem exec_withFaults {i : Instr} {s t : State} (h : exec i s = .next t) (a b : Bool) : ∃ a' b' d,
    exec i (s.withFaults a b s.rspData) = .next (t.withFaults a' b' d) ∧ (i ≠ .rdStatus → d = t.rspData) := by
  rcases exec_cases h with ⟨rfl, rfl⟩ | ⟨rfl | ⟨p, v, rfl⟩, rfl⟩ | ⟨p, j, v, rfl, hj, rfl⟩ | ⟨p, rfl, hb, rfl⟩ |
    ⟨p, rfl, hb, rfl⟩ | ⟨rfl, rfl⟩ | ⟨rfl, rfl⟩ | ⟨rfl, rfl⟩ | ⟨rfl, rfl⟩ | ⟨rfl, rfl⟩
  case inr.inr.inl => exact ⟨_, _, _, exec_wbuf_of_ne p v _ hj, fun _ => rfl⟩
  case inr.inr.inr.inl => exact ⟨_, _, _, exec_tx_busy p hb, fun _ => rfl⟩
  case inr.inr.inr.inr.inl => exact ⟨_, _, _, exec_tx_idle p hb, fun _ => rfl⟩
  case inr.inr.inr.inr.inr.inr.inr.inr.inr => exact ⟨_, _, _, rfl, fun hne => absurd rfl hne⟩
  all_goals exact ⟨_, _, _, rfl, fun _ => rfl⟩

@[simp] theorem engineStep_withFaults_left (s t : State) (a b : Bool) (d : Nat) :
    engineStep (s.withFaults a b d) t = engineStep s t := rfl

/-- The engine neither reads nor writes the fault bits and the response port (R65). -/
@[simp] theorem engineStep_withFaults (s t : State) (a b : Bool) (d : Nat) :
    engineStep s (t.withFaults a b d) = (engineStep s t).withFaults a b d := by
  have hengine : (engineStep s (t.withFaults a b d)).engine = (engineStep s t).engine := engineStep_engine_congr rfl
  obtain ⟨hshreg, -, hph, hbit, hcyc, hgap⟩ := EngineRegs.mk.inj hengine
  rw [engineStep_frame s t, engineStep_frame s (t.withFaults a b d), hshreg, hph, hbit, hcyc, hgap]
  rfl

/-- A cycle that begins with other fault bits ends in the same state but for them and the answer of RD_STATUS. -/
theorem step_withFaults {s t : State} (h : step s = .next t) (a b : Bool) : ∃ a' b' d,
    step (s.withFaults a b s.rspData) = .next (t.withFaults a' b' d) ∧
      (s.command ≠ some .rdStatus → d = t.rspData) := by
  rcases step_cases s with ⟨hr, h'⟩ | ⟨hrst, hn, h'⟩ | ⟨-, i, u, hi, he, h'⟩
  all_goals obtain rfl : _ = t := Host.Outcome.next.inj (h'.symm.trans h)
  · exact ⟨_, _, _, step_reset (s := s.withFaults a b s.rspData) hr, fun _ => rfl⟩
  · exact ⟨a, b, 0, by simp [step_no_command (s := s.withFaults a b s.rspData) hrst hn], fun _ => by simp⟩
  · obtain ⟨a', b', d, hexec, hd⟩ := exec_withFaults he a b
    refine ⟨a', b', d, by simp [step_command (s := s.withFaults a b s.rspData) hi hexec], fun hne => ?_⟩
    simpa using hd fun hstatus => hne (hi.trans (congrArg some hstatus))

/-! ### A faulting command (R108) -/

theorem engineStep_raise (s t : State) (k : StickyFault) : engineStep s (t.raise k) = (engineStep s t).raise k := by
  cases k with
  | overrun => exact engineStep_raise_overrun s t
  | illegalCommand =>
    have h := engineStep_withFaults s t t.ovr true t.rspData
    rw [← engineStep_ovr s t, ← engineStep_rspData s t] at h
    simpa [State.raise, State.withFaults] using h

theorem State.nextCycle_raise (s : State) (k : StickyFault) : (s.raise k).nextCycle = s.nextCycle.raise k := by
  cases k <;> rfl

/-- A command that does nothing but raise a fault ends its cycle where a cycle without a command ends, but for the bit. -/
theorem step_present_raise {s : State} {x : PortIn} {i : Instr} {k : StickyFault} (hc : (s.present x).command = some i)
    (he : exec i (s.present x).quiet = .next ((s.present x).quiet.raise k)) :
    step (s.present x) = .next ((engineStep s s.quiet).nextCycle.raise k) := by
  rw [step_command hc he, engineStep_raise, State.nextCycle_raise, engineStep_present_quiet]

/-- Settles O27: each faulting command raises its fault on the state it finds, and `step_withFaults` for what follows. -/
theorem faultingCommandIsDropped : Obligations.FaultingCommandIsDropped := by
  refine ⟨fun s x hrst hvalid => ?_, fun s a b => ?_⟩
  · have hcommand (i : Instr) (hi : decode x.cmd = i) : (s.present x).command = some i :=
      State.command_eq_some.2 ⟨hrst, hvalid, hi⟩
    refine ⟨(engineStep s s.quiet).nextCycle, by simp [step_present_no_command, hrst], fun p hp hbusy => ?_, fun hi => ?_⟩
    · exact step_present_raise (hcommand _ hp) (exec_tx_busy p hbusy)
    · exact step_present_raise (hcommand _ hi) (exec_wbufRsvd _)
  · have hstep := (step_after s 0).1
    obtain ⟨a', b', d, hstep', hd⟩ := step_withFaults hstep a b
    exact ⟨_, _, hstep, hstep', rfl, hd⟩

end Sys2Proof.Machine
end
